-- ==== Sys2Proof/Word.lean ====
section
/-! DEFINITION. The widths the spec uses (00_scope.md R8, R11): all values are unsigned bit vectors,
bit 0 least significant; the level of one line is a Bool. -/

namespace Sys2Proof

/-- A data byte, the address operand, the transmitter's shift register (`DATA_W = ADDR_W = 8`, R8). -/
abbrev Byte := BitVec 8

/-- A register address on the wire (30_encoding.md R65: the `R` field, 4 bits). -/
abbrev Nibble := BitVec 4

/-- One wire frame, `frame[15]` first on the wire (`FRAME_W = 16`, R8, R11). -/
abbrev Frame := BitVec 16

/-- One command word at the command port (30_encoding.md R73, 18 bits). -/
abbrev Command := BitVec 18

/-- The level of a one-bit line or flag. -/
abbrev Level := Bool

end Sys2Proof
end

