-- ==== Sys2Proof/Config.lean ====
section
/-! DEFINITION. What is fixed for one instance of the hardware (00_scope.md section 3), the transmitter's
configuration record (10_state.md R26), and the free values: constants with no body, one for each kind of
value the spec leaves unspecified. The model applies them to a counter, so that nothing can be proved of them. -/

namespace Sys2Proof

/-- `VARIANT` (R5, D23): active-low chip-select, or active-high load pulse. -/
inductive Variant where
  | cs
  | load
  deriving DecidableEq, Repr

/-- The idle level of the strobe line: high for `CS`, low for `LOAD` (00_scope.md section 5, 41_framer.md R101). -/
def Variant.idleLevel : Variant → Level
  | .cs => true
  | .load => false

/-- The build-time parameters, fixed before reset is released (R5, R6, R7). -/
structure Params where
  variant : Variant
  cpol : Level
  strobeReset : Level
  deriving DecidableEq, Repr

/-- `CPOL`: the clock idles low (R6, D2). -/
def Config.cpol : Level := false

/-- `DIVIDER` (R9). -/
def Config.divider : Nat := 1

/-- The instance `State.reset` stands for. DESIGN CHOICE (log entry 1): `VARIANT = CS`, the spec admits both
and names no default; `STROBE_RESET` is the default of R7. -/
def Config.params : Params :=
  { variant := .cs, cpol := Config.cpol, strobeReset := Variant.idleLevel .cs }

/-- `ROLE`: the one legal value (10_state.md R26). -/
inductive Role where
  | controller
  deriving DecidableEq, Repr

/-- `SYNC`: the one legal value (R26). -/
inductive Sync where
  | synchronous
  deriving DecidableEq, Repr

/-- `BIT_ORDER`: the one legal value (R26; 20_memory.md R48). -/
inductive BitOrder where
  | msbFirst
  deriving DecidableEq, Repr

/-- `SAMPLE_EDGE`: the one legal value (R26). -/
inductive SampleEdge where
  | leading
  deriving DecidableEq, Repr

/-- `CLKSRC`: the one legal value (R26). -/
inductive ClockSource where
  | peripheralClock
  deriving DecidableEq, Repr

/-- The transport configuration record `CFG` (R26). -/
structure TransportCfg where
  role : Role
  sync : Sync
  bitOrder : BitOrder
  sampleEdge : SampleEdge
  cpol : Level
  clkSrc : ClockSource
  div : Nat
  linesClaimed : Bool
  deriving DecidableEq, Repr

/-- What the `CFG` micro-operation writes: the only legal value of every field (R26, 40_transport.md R86). -/
def TransportCfg.legal (p : Params) : TransportCfg :=
  { role := .controller, sync := .synchronous, bitOrder := .msbFirst, sampleEdge := .leading,
    cpol := p.cpol, clkSrc := .peripheralClock, div := Config.divider, linesClaimed := true }

/-- `MODE`, the receiver's externally meaningful state (10_state.md R37). -/
inductive Mode where
  | shutdown
  | active
  deriving DecidableEq, Repr, Inhabited

/-- FREE VALUE (log entry 7): an unspecified byte of the block (`DATA_HOLD`, `SHIFT`). -/
opaque Config.freeByte : Nat → Byte

/-- FREE VALUE (log entry 7): the unspecified content of a receiver cell. -/
opaque Config.freeCell : Nat → Byte

/-- FREE VALUE (log entry 7): an unspecified `ADDR_HOLD`. -/
opaque Config.freeNibble : Nat → Nibble

/-- FREE VALUE (log entry 7): an unspecified `RSHIFT`. -/
opaque Config.freeFrame : Nat → Frame

/-- FREE VALUE (log entry 7): an unspecified level of the block. -/
opaque Config.freeLevel : Nat → Level

/-- FREE VALUE (log entry 7): an unspecified clock divider, after a reset (R42). -/
opaque Config.freeDivider : Nat → Nat

/-- FREE VALUE (log entry 24): the levels of `MOSI` and `SCLK`, pair after pair, in a bit cell that has no defined shape
(70_reset_and_hazards.md R172). -/
opaque Config.freeWave : Nat → List (Level × Level)

/-- FREE VALUE (log entry 7): an unspecified `MODE`. -/
opaque Config.freeMode : Nat → Mode

end Sys2Proof
end

