-- ==== Sys2Proof/Machine/State.lean ====
section
/-! DEFINITION. The state of the block and of the receiver it drives (10_state.md), the reasons a run stops,
and the state right after reset. -/

namespace Sys2Proof.Machine

/-- A wire event (00_scope.md R13): `S(v)`, `D(b)`, `C(v)`. -/
inductive Event where
  | strobe (v : Level)
  | data (b : Level)
  | clock (v : Level)
  deriving DecidableEq, Repr

/-- `OP` (10_state.md R19): the operation in flight. -/
inductive Op where
  | none
  | initT
  | txb
  | wr
  | initD
  deriving DecidableEq, Repr

/-- A micro-operation (10_state.md R21). -/
inductive MicroOp where
  | cfg
  | tx (v : Byte)
  | stb (v : Level)
  deriving DecidableEq, Repr

/-- What host and platform can do besides presenting an operation and waiting for it. -/
inductive PlatformEvent where
  /-- The host presents `cmd` for one instant and withdraws it (60_exceptions.md R156). -/
  | offer (cmd : Command)
  /-- `rst` is asserted and released (70_reset_and_hazards.md R167). -/
  | rst
  /-- The peripheral clock starts or stops (40_transport.md R93). -/
  | clock (runs : Bool)
  /-- The receiver loses power and gets it back (43_register_frames.md R144, R145). -/
  | powerCycle
  deriving DecidableEq, Repr

/-- One entry of the list of what host and platform do next. -/
inductive HostMove where
  /-- The host holds `cmd` at the command port until it is accepted (60_exceptions.md R156, R164). -/
  | present (cmd : Command)
  /-- `e` happens after `n` more atomic steps of the block, or as soon as the block has none to take. -/
  | after (n : Nat) (e : PlatformEvent)
  deriving DecidableEq, Repr

/-- The receiver's register space (20_memory.md R45): address and byte, one entry for each of the sixteen cells,
addresses rising. An address outside the space is not listed and has no value (log entry 6). -/
abbrev Memory := List Host.Cell

/-- Sixteen cells that hold free values, drawn from `n` on. -/
def Memory.unspecified (n : Nat) : Memory := (List.range 16).map fun k => (k, Config.freeCell (n + k))

/-- The receiver (10_state.md section 8, 43_register_frames.md R117). -/
structure Receiver where
  /-- `RX[0..15]` (R35). -/
  rx : Memory
  /-- `RSHIFT` (R36). -/
  rshift : Frame
  /-- `NBITS` (R36). -/
  nbits : Nat
  /-- `MODE` (R37). -/
  mode : Mode
  /-- `WOKEN` (R38). -/
  woken : Bool
  /-- The previous levels of `STROBE` and `SCLK` (R39). -/
  prevStrobe : Level
  prevSclk : Level
  /-- The model's own: `MODE` is specified (log entry 8). -/
  modeKnown : Bool
  /-- The model's own: DISPLAYTEST may differ from its power-on content (log entry 8). -/
  testWritten : Bool
  /-- The model's own: the receiver's part of the run is refused (43_register_frames.md R120, log entry 9). -/
  rxRefused : Bool
  /-- The model's own: counter of the free values the receiver has drawn (log entry 7). -/
  free : Nat
  deriving DecidableEq, Repr

/-- The whole machine: the block (10_state.md R18 to R34), its parameters, the receiver, and what host and
platform do next. -/
structure State where
  /-- `VARIANT`, `CPOL`, `STROBE_RESET` (R43); no step writes them. -/
  params : Params
  /-- `OP` (R19). -/
  op : Op
  /-- `UPC` (R20). -/
  upc : BitVec 6
  /-- `TXS` (R22). -/
  txs : Bool
  /-- `ADDR_HOLD`, `DATA_HOLD` (R18). -/
  addrHold : Nibble
  dataHold : Byte
  /-- `CFG_DONE` (R25). -/
  cfgDone : Bool
  /-- `CFG` (R26). -/
  cfg : TransportCfg
  /-- `BUSY` (R24). -/
  busy : Bool
  /-- `SHIFT` (R29). -/
  shift : Byte
  /-- `BITCNT` (R30). -/
  bitcnt : BitVec 4
  /-- `SCLK`, `MOSI`, `STROBE` (R31, R32, R33). -/
  sclk : Level
  mosi : Level
  strobe : Level
  /-- `TRACE` (R34). -/
  trace : List Event
  /-- The receiver. -/
  rcv : Receiver
  /-- The model's own: the peripheral clock runs (log entry 4). -/
  clk : Bool
  /-- The model's own: since `rst` the peripheral clock has neither stopped before the first `INIT_TRANSPORT` nor stood still
  at it, the duty of 60_exceptions.md R164 and 70_reset_and_hazards.md R172 (log entry 24). -/
  clockStable : Bool
  /-- The model's own: what host and platform do next, soonest first (log entry 3). -/
  moves : List HostMove
  /-- The model's own: counter of the free values the block has drawn (log entry 7). -/
  free : Nat
  deriving DecidableEq, Repr

/-- There is no fault: the block raises no exception and no error (60_exceptions.md R147). -/
inductive Fault where
  deriving DecidableEq, Repr

/-- Why a run has no meaning from here on. -/
inductive Refusal where
  /-- Raised by exec's arm of an instruction that has no meaning yet (none is left). Safe. -/
  | notModelled (mnemonic : String)
  /-- Raised by TX_BYTE, WRITE_REG and INIT_DISPLAY accepted while `CFG_DONE = 0` (60_exceptions.md R155). Safe. -/
  | operationBeforeInitTransport
  deriving DecidableEq, Repr

/-- The receiver at power-on beside a block in reset (10_state.md R39, R42; 43_register_frames.md R145). Every cell
holds a free value (log entry 6). `RSHIFT` and the previous level of `SCLK` are DESIGN CHOICES (log entry 5). -/
def Receiver.powerOn (p : Params) : Receiver :=
  { rx := Memory.unspecified 0, rshift := 0, nbits := 0, mode := .shutdown, woken := false,
    prevStrobe := p.strobeReset, prevSclk := p.cpol,
    modeKnown := true, testWritten := false, rxRefused := false, free := 16 }

/-- Right after reset, block and receiver together, for given parameters (10_state.md R42). What R42 leaves
unspecified holds the value log entry 5 names. -/
def State.resetFor (p : Params) : State :=
  { params := p, op := .none, upc := 0, txs := false, addrHold := 0, dataHold := 0,
    cfgDone := false, cfg := { TransportCfg.legal p with linesClaimed := false },
    busy := false, shift := 0, bitcnt := 0,
    sclk := p.cpol, mosi := false, strobe := p.strobeReset, trace := [],
    rcv := Receiver.powerOn p, clk := true, clockStable := true, moves := [], free := 0 }

/-- Right after reset, for the parameters of `Config.params`. -/
def State.reset : State := State.resetFor Config.params

end Sys2Proof.Machine
end

