-- ==== Sys2Proof/Machine/Flags.lean ====
section
/-! DEFINITION. The flags of the block: READY, BUSY, CFG_DONE (10_state.md R23 to R25); no other flag exists. -/

namespace Sys2Proof.Machine

/-- `READY = 1` iff `OP = NONE` (R23). -/
def State.ready (s : State) : Bool := s.op == .none

/-- `BUSY` after a bit cell that leaves `left` cells to send: cleared at zero (40_transport.md R90). -/
def busyAfterCell (left : BitVec 4) (busy : Bool) : Bool := if left = 0 then false else busy

/-- Admission (30_encoding.md R73): `INIT_TRANSPORT` always, the others once `CFG_DONE = 1`. -/
def State.admits (s : State) (o : Op) : Bool := o == .initT || s.cfgDone

end Sys2Proof.Machine
end

