-- ==== Sys2Proof/Machine/Operands.lean ====
section
/-! DEFINITION. Operand assembly: the address mask, the frame and its two bytes (30_encoding.md R66 to R70). -/

namespace Sys2Proof.Machine

/-- `a & 0x0F` as the 4-bit address field, the block's only arithmetic (R69, R71). -/
def maskAddress (a : Byte) : Nibble := a.extractLsb' 0 4

/-- `zext_8(r)`: the first byte of a frame, upper nibble zero (R67, R69). -/
def addressByte (r : Nibble) : Byte := r.setWidth 8

/-- `frame(a, d) = {0000, a[3:0], d}` (R66); the data is not modified (R70). -/
def frameOf (a d : Byte) : Frame := (0#4 ++ maskAddress a) ++ d

/-- The address and the data a receiver reads in `RSHIFT` (43_register_frames.md R121). -/
def shiftedAddress (f : Frame) : Nibble := f.extractLsb' 8 4

def shiftedData (f : Frame) : Byte := f.extractLsb' 0 8

end Sys2Proof.Machine
end

