-- ==== Sys2Proof/Machine/Ops.lean ====
section
/-! DEFINITION. The named operations over the receiver's registers and the three lines: the register write and
the commit at the receiver (43_register_frames.md R118 to R121, R134), emitting an event, and the two events that
stand where another machine has exceptions: the block's reset and the receiver's power-on. The block takes no
exception and returns from none (60_exceptions.md R147, R152, R154). -/

namespace Sys2Proof.Machine

/-- The value of a cell, none outside the register space. The block itself never reads (20_memory.md R52). -/
def Memory.read : Memory → Nat → Option Byte
  | [], _ => none
  | (b, v) :: m, a => if a = b then some v else Memory.read m a

/-- `MemWrite(a, 1, d)` (00_scope.md R12): the whole cell is replaced, the list stays sorted. -/
def Memory.write : Memory → Nat → Byte → Memory
  | [], a, v => [(a, v)]
  | (b, w) :: m, a, v =>
    if a < b then (a, v) :: (b, w) :: m
    else if a = b then (a, v) :: m
    else (b, w) :: Memory.write m a v

/-- The canonical form: the sixteen cells of the 4-bit space, in the order of their addresses (20_memory.md R45). -/
abbrev Memory.wf (m : Memory) : Prop := m.map Prod.fst = List.range 16

/-- The register address whose data changes `MODE` (R134), and the one of the test register (R135). -/
def shutdownAddress : Nibble := 0xC#4

def displayTestAddress : Nibble := 0xF#4

/-- What a refused frame leaves: every cell and `MODE` unspecified from then on (R120). -/
def Receiver.discredit (r : Receiver) : Receiver :=
  { r with rx := Memory.unspecified r.free, mode := Config.freeMode r.free, modeKnown := false,
           testWritten := true, rxRefused := true, free := r.free + 16 }

/-- The cell of `a` unspecified, and `MODE` too for SHUTDOWN: a write before the power-on no-op (R121). -/
def Receiver.writeUntrusted (r : Receiver) (a : Nibble) : Receiver :=
  { r with rx := r.rx.write a.toNat (Config.freeCell r.free),
           mode := if a = shutdownAddress then Config.freeMode r.free else r.mode,
           modeKnown := if a = shutdownAddress then false else r.modeKnown,
           testWritten := if a = displayTestAddress then true else r.testWritten,
           free := r.free + 1 }

/-- The cell of `a` written with `d` (R121). -/
def Receiver.writeCell (r : Receiver) (a : Nibble) (d : Byte) : Receiver :=
  { r with rx := r.rx.write a.toNat d,
           testWritten := if a = displayTestAddress then true else r.testWritten }

/-- SHUTDOWN data `d` left `MODE` unspecified, and the cell of SHUTDOWN still holds that `d` (R142, log entry 25). -/
abbrev Receiver.modeOpenFrom (r : Receiver) (d : Byte) : Prop :=
  r.modeKnown = false ∧ r.rx.read shutdownAddress.toNat = some d

/-- The effect of SHUTDOWN data on `MODE` (R134): 1 Active, 0 Shutdown, else a free value, which the same data
committed again leaves as it is (R142, log entry 25). The cell is written after it. -/
def Receiver.setMode (r : Receiver) (d : Byte) : Receiver :=
  if d = 1 then { r with mode := .active, modeKnown := true }
  else if d = 0 then { r with mode := .shutdown, modeKnown := true }
  else if r.modeOpenFrom d then r
  else { r with mode := Config.freeMode r.free, modeKnown := false, free := r.free + 1 }

/-- The commit of address `a` and data `d` (R121, R122, R134). A receiver that was refused stays so (R120). -/
def Receiver.commit (r : Receiver) (a : Nibble) (d : Byte) : Receiver :=
  if r.rxRefused then r.discredit
  else if a = 0 then { r with woken := true }
  else if r.woken then
    if a = shutdownAddress then (r.setMode d).writeCell a d else r.writeCell a d
  else r.writeUntrusted a

/-- A rising edge of the strobe: refused below 16 bits, else the last 16 bits commit (R120). -/
def Receiver.rise (r : Receiver) : Receiver :=
  if r.nbits < 16 then r.discredit else r.commit (shiftedAddress r.rshift) (shiftedData r.rshift)

/-- The strobe line seen at level `v` (R119, R120): only an edge acts. -/
def Receiver.seeStrobe (r : Receiver) (v : Level) : Receiver :=
  match r.prevStrobe, v with
  | false, true => { r with prevStrobe := true }.rise
  | true, false => { r with prevStrobe := false, nbits := 0 }
  | _, _ => { r with prevStrobe := v }

/-- The clock line driven to `v` with the data line at `m` (R118): the leading edge `C(¬CPOL)` samples. -/
def Receiver.seeClock (r : Receiver) (cpol m v : Level) : Receiver :=
  if v = cpol then { r with prevSclk := v }
  else { r with prevSclk := v, rshift := r.rshift.shiftConcat m, nbits := r.nbits + 1 }

/-- The receiver's reaction to one wire event, the data line being at `m` (R117). -/
def Receiver.see (r : Receiver) (cpol m : Level) : Event → Receiver
  | .strobe v => r.seeStrobe v
  | .data _ => r
  | .clock v => r.seeClock cpol m v

/-- `emit(e)` (00_scope.md R12, 10_state.md R34): append to the trace; the receiver sees it. -/
def State.emit (s : State) (e : Event) : State :=
  { s with trace := s.trace ++ [e], rcv := s.rcv.see s.params.cpol s.mosi e }

/-- `STROBE <- v; emit(S(v))` (41_framer.md R98). -/
def State.driveStrobe (s : State) (v : Level) : State := { s with strobe := v }.emit (.strobe v)

/-- `MOSI <- b; emit(D(b))` (40_transport.md R90). -/
def State.driveMosi (s : State) (b : Level) : State := { s with mosi := b }.emit (.data b)

/-- `SCLK <- v; emit(C(v))` (40_transport.md R90). -/
def State.driveSclk (s : State) (v : Level) : State := { s with sclk := v }.emit (.clock v)

/-- One pair of levels on `MOSI` and `SCLK`. -/
def State.driveLines (s : State) (x : Level × Level) : State := (s.driveMosi x.1).driveSclk x.2

/-- What a bit cell with data bit `b` puts on the lines: data, leading edge, trailing edge (40_transport.md R90); after an
`INIT_TRANSPORT` with an unstable clock a free wave, from which `SCLK` comes back to `CPOL` (70_reset_and_hazards.md
R172, 10_state.md R31; log entry 24). -/
def State.cellLines (s : State) (b : Level) : State :=
  if s.clockStable then ((s.driveMosi b).driveSclk (!s.params.cpol)).driveSclk s.params.cpol
  else { ((Config.freeWave s.free).foldl State.driveLines s).driveSclk s.params.cpol with free := s.free + 1 }

/-- A frame committed at the receiver (43_register_frames.md R121). -/
def State.commitFrame (s : State) (a : Nibble) (d : Byte) : State := { s with rcv := s.rcv.commit a d }

/-- `rst` (10_state.md R42, 70_reset_and_hazards.md R167 to R170): the block to its reset state, the receiver
untouched but for the edge the strobe line may make. What R42 leaves unspecified is a free value, but for
`LINES_CLAIMED`: DESIGN CHOICE (log entry 22), it is 0, because the lines are released (R168). The duty on the clock
begins anew (60_exceptions.md R164), after a hang too: the clock may start again before `INIT_TRANSPORT` (R170,
95_test_vectors.md V13; log entry 24). -/
def State.blockReset (s : State) : State :=
  { s with op := .none, upc := 0, txs := false,
           addrHold := Config.freeNibble s.free, dataHold := Config.freeByte s.free,
           cfgDone := false,
           cfg := { TransportCfg.legal s.params with
                      cpol := Config.freeLevel s.free, div := Config.freeDivider s.free, linesClaimed := false },
           busy := false, shift := Config.freeByte (s.free + 1), bitcnt := 0,
           sclk := Config.freeLevel (s.free + 1), mosi := Config.freeLevel (s.free + 2),
           strobe := s.params.strobeReset, trace := [],
           rcv := s.rcv.seeStrobe s.params.strobeReset, clockStable := true, free := s.free + 3 }

/-- The receiver loses power and gets it back (43_register_frames.md R144, R145; 10_state.md R39). -/
def State.receiverPowerCycle (s : State) : State :=
  { s with rcv :=
      { rx := Memory.unspecified s.rcv.free, rshift := Config.freeFrame s.rcv.free, nbits := 0,
        mode := .shutdown, woken := false, prevStrobe := s.strobe, prevSclk := s.sclk,
        modeKnown := true, testWritten := false, rxRefused := false, free := s.rcv.free + 16 } }

/-- The peripheral clock starts or stops (40_transport.md R93). A running clock that stops before the first
`INIT_TRANSPORT` breaks the duty of 60_exceptions.md R164 (DESIGN CHOICE, log entry 24); one that stood still at `rst`
breaks nothing by starting. A clock that stands still with a byte in flight is the hang, which only `rst` leaves
(60_exceptions.md R152, R154): its start then is no move (93_implementation_defined.md U21, log entry 4). -/
def State.setClock (s : State) (runs : Bool) : State :=
  { s with clk := runs && (s.clk || !s.busy), clockStable := s.clockStable && (runs || !s.clk || s.cfgDone) }

/-- `LIT(n, k)` (43_register_frames.md R139): none where the spec leaves it unspecified. DESIGN CHOICE (log entry
23): in `Shutdown` no LED is lit, also after DISPLAYTEST was written, where R139's first case says dark and R135
leaves the display unspecified. -/
def Receiver.lit (r : Receiver) (n k : Fin 8) : Option Bool :=
  if r.modeKnown then
    match r.mode with
    | .shutdown => some false
    | .active =>
      if r.rx.read 0x9 = some 0 ∧ r.rx.read 0xB = some 7 ∧ r.testWritten = false then
        (r.rx.read (n.val + 1)).map fun v => v.getLsbD k.val
      else none
  else none

end Sys2Proof.Machine
end

