-- ==== Sys2Proof/Machine/Sequencer.lean ====
section
/-! DEFINITION. The micro-operation lists, the atomic steps of sequencer and transmitter (10_state.md R20 to R22,
40_transport.md R86 to R90), and an operation carried through from its acceptance. -/

namespace Sys2Proof.Machine

/-- The initialization table with `D_2 = i` (42_init_sequence.md R110). -/
def initTable (i : Byte) : List (Nibble × Byte) :=
  [(0x0#4, 0x00#8), (0xB#4, 0x07#8), (0xA#4, i), (0x9#4, 0x00#8),
   (0x1#4, 0x00#8), (0x2#4, 0x00#8), (0x3#4, 0x00#8), (0x4#4, 0x00#8),
   (0x5#4, 0x00#8), (0x6#4, 0x00#8), (0x7#4, 0x00#8), (0x8#4, 0x00#8), (0xC#4, 0x01#8)]

/-- `wr(r, d)` (10_state.md R21, 41_framer.md R97). -/
def wr (p : Params) (r : Nibble) (d : Byte) : List MicroOp :=
  match p.variant with
  | .cs => [.stb false, .tx (addressByte r), .tx d, .stb true]
  | .load => [.tx (addressByte r), .tx d, .stb true, .stb false]

/-- `micro(OP, r, d)` (10_state.md R21). -/
def micro (p : Params) (o : Op) (r : Nibble) (d : Byte) : List MicroOp :=
  match o with
  | .none => []
  | .initT => [.cfg]
  | .txb => [.tx d]
  | .wr => wr p r d
  | .initD => (initTable d).flatMap fun x => wr p x.1 x.2

/-- `L` of R22. -/
def State.microList (s : State) : List MicroOp := micro s.params s.op s.addrHold s.dataHold

/-- `m = L[UPC]` of R22, none when no operation is in flight. -/
def State.currentMicro (s : State) : Option MicroOp := s.microList[s.upc.toNat]?

/-- The current micro-operation is the last of its list. -/
def State.atLast (s : State) : Bool := s.upc.toNat + 1 == s.microList.length

/-- "advance" of R22. When the operation ends, the holding registers are dead: free values (R18, D22). -/
def State.advance (s : State) : State :=
  { s with op := if s.atLast then .none else s.op,
           upc := if s.atLast then 0 else s.upc + 1,
           addrHold := if s.atLast then Config.freeNibble s.free else s.addrHold,
           dataHold := if s.atLast then Config.freeByte s.free else s.dataHold,
           free := if s.atLast then s.free + 1 else s.free }

/-- The duty on the clock once `CFG` has run: the first one with the clock standing still breaks it
(70_reset_and_hazards.md R172, log entry 24). -/
def State.dutyAfterCfg (s : State) : Bool := s.clockStable && (s.clk || s.cfgDone)

/-- The `CFG` micro-operation (40_transport.md R86): it needs no clock and cannot fail. -/
def State.configure (s : State) : State :=
  { ({ s with cfg := TransportCfg.legal s.params }.driveSclk s.params.cpol).driveMosi false with
      cfgDone := true, clockStable := s.dutyAfterCfg }

/-- TX-START (10_state.md R22, 40_transport.md R88). -/
def State.txStart (s : State) (v : Byte) : State := { s with shift := v, bitcnt := 8, busy := true, txs := true }

/-- The end of TX-WAIT but for "advance" (10_state.md R22, 40_transport.md R89). -/
def State.txEnd (s : State) : State := { s with txs := false }

/-- The bit cell (40_transport.md R90). -/
def State.bitCell (s : State) : State :=
  { s.cellLines s.shift.msb with
      shift := s.shift <<< 1, bitcnt := s.bitcnt - 1, busy := busyAfterCell (s.bitcnt - 1) s.busy }

/-- The sequencer's step with an operation in flight, if one is enabled (10_state.md R22). -/
def State.sequencerStep (s : State) : Option State :=
  match s.currentMicro with
  | none => none
  | some .cfg => some s.configure.advance
  | some (.stb v) => some (s.driveStrobe v).advance
  | some (.tx v) =>
    if s.busy then none else if s.txs then some s.txEnd.advance else some (s.txStart v)

/-- The transmitter's step, if it is enabled: `BUSY = 1` and the clock runs (40_transport.md R90, R93). -/
def State.transmitterStep (s : State) : Option State :=
  if s.busy && s.clk then some s.bitCell else none

/-- One atomic step of the block. Never are both enabled in a reachable state (00_scope.md R15); in the others
the transmitter goes first (log entry 12). -/
def State.blockStep (s : State) : Option State :=
  match s.transmitterStep with
  | some t => some t
  | none => s.sequencerStep

/-- One atomic step of the block that host and platform do not come before. -/
def State.quietStep (s : State) : Option State :=
  match s.moves with
  | .after 0 _ :: _ => none
  | .after (n + 1) e :: ms => s.blockStep.map fun t => { t with moves := .after n e :: ms }
  | _ => s.blockStep

/-- At most `k` atomic steps of the block, ending early where none is enabled or host or platform come in. -/
def State.run : Nat → State → State
  | 0, s => s
  | k + 1, s =>
    match s.quietStep with
    | none => s
    | some t => t.run k

/-- The atomic steps of the longest operation: INIT_DISPLAY has 26 `STB` of one step and 26 `TX` of ten. -/
def opFuel : Nat := 286

/-- ACCEPT (10_state.md R22, R18): the holding registers are given the values `r` and `d`. -/
def State.accept (s : State) (o : Op) (r : Nibble) (d : Byte) : State :=
  { s with op := o, upc := 0, txs := false, addrHold := r, dataHold := d }

/-- An operation at the command port. Not accepted while one is in flight (60_exceptions.md R156); refused where it
is not admitted (R155); else accepted and carried on until it completes, the transmitter can take no step
(the hang, R152), or host or platform come in. -/
def State.issue (s : State) (o : Op) (r : Nibble) (d : Byte) : Host.Outcome State Fault Refusal :=
  if s.ready then
    if s.admits o then .next ((s.accept o r d).run opFuel) else .refused .operationBeforeInitTransport
  else .next s

end Sys2Proof.Machine
end

