-- ==== Sys2Proof/Machine/Framer.lean ====
section
/-! DEFINITION. The operation of the framer (41_framer.md). -/

namespace Sys2Proof.Machine

/-- `WRITE_REG a, d` (R97): `ADDR_HOLD <- a[3:0]`, `DATA_HOLD <- d` (10_state.md R18). -/
def execWriteReg (a d : Byte) (s : State) : Host.Outcome State Fault Refusal :=
  s.issue .wr (maskAddress a) d

end Sys2Proof.Machine
end

