-- ==== Sys2Proof/Machine/Frames.lean ====
section
/-! DEFINITION. The sixteen frames: what the receiver does when it commits each (43_register_frames.md R121 to R137).
The upper nibble is ignored (R138). -/

namespace Sys2Proof.Machine

/-- `F.NOOP` (R122): no cell is written, `WOKEN <- 1`. -/
def execFNoop (_z : Nibble) (d : Byte) (s : State) : Host.Outcome State Fault Refusal :=
  .next (s.commitFrame 0x0#4 d)

/-- `F.DIGIT0` (R123): `RX[0x1] <- d`. -/
def execFDigit0 (_z : Nibble) (d : Byte) (s : State) : Host.Outcome State Fault Refusal :=
  .next (s.commitFrame 0x1#4 d)

/-- `F.DIGIT1` (R124): `RX[0x2] <- d`. -/
def execFDigit1 (_z : Nibble) (d : Byte) (s : State) : Host.Outcome State Fault Refusal :=
  .next (s.commitFrame 0x2#4 d)

/-- `F.DIGIT2` (R125): `RX[0x3] <- d`. -/
def execFDigit2 (_z : Nibble) (d : Byte) (s : State) : Host.Outcome State Fault Refusal :=
  .next (s.commitFrame 0x3#4 d)

/-- `F.DIGIT3` (R126): `RX[0x4] <- d`. -/
def execFDigit3 (_z : Nibble) (d : Byte) (s : State) : Host.Outcome State Fault Refusal :=
  .next (s.commitFrame 0x4#4 d)

/-- `F.DIGIT4` (R127): `RX[0x5] <- d`. -/
def execFDigit4 (_z : Nibble) (d : Byte) (s : State) : Host.Outcome State Fault Refusal :=
  .next (s.commitFrame 0x5#4 d)

/-- `F.DIGIT5` (R128): `RX[0x6] <- d`. -/
def execFDigit5 (_z : Nibble) (d : Byte) (s : State) : Host.Outcome State Fault Refusal :=
  .next (s.commitFrame 0x6#4 d)

/-- `F.DIGIT6` (R129): `RX[0x7] <- d`. -/
def execFDigit6 (_z : Nibble) (d : Byte) (s : State) : Host.Outcome State Fault Refusal :=
  .next (s.commitFrame 0x7#4 d)

/-- `F.DIGIT7` (R130): `RX[0x8] <- d`. -/
def execFDigit7 (_z : Nibble) (d : Byte) (s : State) : Host.Outcome State Fault Refusal :=
  .next (s.commitFrame 0x8#4 d)

/-- `F.DECODEMODE` (R131): `RX[0x9] <- d`. -/
def execFDecodeMode (_z : Nibble) (d : Byte) (s : State) : Host.Outcome State Fault Refusal :=
  .next (s.commitFrame 0x9#4 d)

/-- `F.INTENSITY` (R132): `RX[0xA] <- d`. -/
def execFIntensity (_z : Nibble) (d : Byte) (s : State) : Host.Outcome State Fault Refusal :=
  .next (s.commitFrame 0xA#4 d)

/-- `F.SCANLIMIT` (R133): `RX[0xB] <- d`. -/
def execFScanLimit (_z : Nibble) (d : Byte) (s : State) : Host.Outcome State Fault Refusal :=
  .next (s.commitFrame 0xB#4 d)

/-- `F.SHUTDOWN` (R134): the cell, and `MODE` by the data. -/
def execFShutdown (_z : Nibble) (d : Byte) (s : State) : Host.Outcome State Fault Refusal :=
  .next (s.commitFrame 0xC#4 d)

/-- `F.ADDR_D` (R136): no name in the source; the model of the spec stores the byte (log entry 11). -/
def execFAddrD (_z : Nibble) (d : Byte) (s : State) : Host.Outcome State Fault Refusal :=
  .next (s.commitFrame 0xD#4 d)

/-- `F.ADDR_E` (R137): no name in the source; the model of the spec stores the byte (log entry 11). -/
def execFAddrE (_z : Nibble) (d : Byte) (s : State) : Host.Outcome State Fault Refusal :=
  .next (s.commitFrame 0xE#4 d)

/-- `F.DISPLAYTEST` (R135): `RX[0xF] <- d`. -/
def execFDisplayTest (_z : Nibble) (d : Byte) (s : State) : Host.Outcome State Fault Refusal :=
  .next (s.commitFrame 0xF#4 d)

end Sys2Proof.Machine
end

