-- ==== Sys2Proof/Machine/InitSequence.lean ====
section
/-! DEFINITION. The operation of the initialization sequencer (42_init_sequence.md). -/

namespace Sys2Proof.Machine

/-- `INIT_DISPLAY i` (R109, R111): `DATA_HOLD <- i`, all eight bits (10_state.md R18). -/
def execInitDisplay (_u i : Byte) (s : State) : Host.Outcome State Fault Refusal :=
  s.issue .initD s.addrHold i

end Sys2Proof.Machine
end

