-- ==== Sys2Proof/Machine/Transport.lean ====
section
/-! DEFINITION. The operations of the transmitter (40_transport.md). -/

namespace Sys2Proof.Machine

/-- `INIT_TRANSPORT` (R85, R95): always admitted; neither holding register is loaded (10_state.md R18). What an unstable
clock before it does to the bit cells that follow stands in `State.clockStable` (70_reset_and_hazards.md R172). -/
def execInitTransport (_u : BitVec 16) (s : State) : Host.Outcome State Fault Refusal :=
  s.issue .initT s.addrHold s.dataHold

/-- `TX_BYTE v` (R87): `DATA_HOLD <- v` (10_state.md R18); the unused bits are ignored (30_encoding.md R74). -/
def execTxByte (_u v : Byte) (s : State) : Host.Outcome State Fault Refusal :=
  s.issue .txb s.addrHold v

end Sys2Proof.Machine
end

