-- ==== Sys2Proof/Syntax.lean ====
section
/-! DEFINITION. The instructions: one constructor per row of spec/opcode_table.json (30_encoding.md R76, R77),
with every field of the row's encoding as an operand, the unused ones (`u`, `z`) too, and the symbolic
register names of 30_encoding.md R83. -/

namespace Sys2Proof

/-- The four operations of the command port (R73; `u` are the ignored bits of R74) and the sixteen
frames of the wire (R77; `z` is the nibble the receiver ignores, R78, and `d` the data). -/
inductive Instr where
  /-- `INIT_TRANSPORT` (R85). -/
  | initTransport (u : BitVec 16)
  /-- `TX_BYTE v` (R87). -/
  | txByte (u v : Byte)
  /-- `WRITE_REG a, d` (R97). -/
  | writeReg (a d : Byte)
  /-- `INIT_DISPLAY i` (R109). -/
  | initDisplay (u i : Byte)
  /-- `F.NOOP`, address 0x0 (R122). -/
  | fNoop (z : Nibble) (d : Byte)
  /-- `F.DIGIT0`, address 0x1 (R123). -/
  | fDigit0 (z : Nibble) (d : Byte)
  /-- `F.DIGIT1`, address 0x2 (R124). -/
  | fDigit1 (z : Nibble) (d : Byte)
  /-- `F.DIGIT2`, address 0x3 (R125). -/
  | fDigit2 (z : Nibble) (d : Byte)
  /-- `F.DIGIT3`, address 0x4 (R126). -/
  | fDigit3 (z : Nibble) (d : Byte)
  /-- `F.DIGIT4`, address 0x5 (R127). -/
  | fDigit4 (z : Nibble) (d : Byte)
  /-- `F.DIGIT5`, address 0x6 (R128). -/
  | fDigit5 (z : Nibble) (d : Byte)
  /-- `F.DIGIT6`, address 0x7 (R129). -/
  | fDigit6 (z : Nibble) (d : Byte)
  /-- `F.DIGIT7`, address 0x8 (R130). -/
  | fDigit7 (z : Nibble) (d : Byte)
  /-- `F.DECODEMODE`, address 0x9 (R131). -/
  | fDecodeMode (z : Nibble) (d : Byte)
  /-- `F.INTENSITY`, address 0xA (R132). -/
  | fIntensity (z : Nibble) (d : Byte)
  /-- `F.SCANLIMIT`, address 0xB (R133). -/
  | fScanLimit (z : Nibble) (d : Byte)
  /-- `F.SHUTDOWN`, address 0xC (R134). -/
  | fShutdown (z : Nibble) (d : Byte)
  /-- `F.ADDR_D`, address 0xD (R136). -/
  | fAddrD (z : Nibble) (d : Byte)
  /-- `F.ADDR_E`, address 0xE (R137). -/
  | fAddrE (z : Nibble) (d : Byte)
  /-- `F.DISPLAYTEST`, address 0xF (R135). -/
  | fDisplayTest (z : Nibble) (d : Byte)
  deriving DecidableEq, Repr

/-- The mnemonic of the instruction's row in spec/opcode_table.json. -/
def Instr.mnemonic : Instr → String
  | .initTransport .. => "INIT_TRANSPORT"
  | .txByte .. => "TX_BYTE"
  | .writeReg .. => "WRITE_REG"
  | .initDisplay .. => "INIT_DISPLAY"
  | .fNoop .. => "F.NOOP"
  | .fDigit0 .. => "F.DIGIT0"
  | .fDigit1 .. => "F.DIGIT1"
  | .fDigit2 .. => "F.DIGIT2"
  | .fDigit3 .. => "F.DIGIT3"
  | .fDigit4 .. => "F.DIGIT4"
  | .fDigit5 .. => "F.DIGIT5"
  | .fDigit6 .. => "F.DIGIT6"
  | .fDigit7 .. => "F.DIGIT7"
  | .fDecodeMode .. => "F.DECODEMODE"
  | .fIntensity .. => "F.INTENSITY"
  | .fScanLimit .. => "F.SCANLIMIT"
  | .fShutdown .. => "F.SHUTDOWN"
  | .fAddrD .. => "F.ADDR_D"
  | .fAddrE .. => "F.ADDR_E"
  | .fDisplayTest .. => "F.DISPLAYTEST"

/-- The named addresses (20_memory.md R45, 30_encoding.md R83). -/
inductive RegName where
  | noop
  /-- `DIGITn`, n in 0 to 7. -/
  | digit (n : Fin 8)
  | decodeMode
  | intensity
  | scanLimit
  | shutdown
  | displayTest
  deriving DecidableEq, Repr

end Sys2Proof
end

