-- ==== Sys2Proof/Machine/Dispatch.lean ====
section
/-! DEFINITION. One arm per instruction, each a direct call of its meaning. -/

namespace Sys2Proof.Machine

def exec (i : Instr) (s : State) : Host.Outcome State Fault Refusal :=
  match i with
  | .initTransport u => Sys2Proof.Machine.execInitTransport u s
  | .txByte u v => Sys2Proof.Machine.execTxByte u v s
  | .writeReg a d => Sys2Proof.Machine.execWriteReg a d s
  | .initDisplay u v => Sys2Proof.Machine.execInitDisplay u v s
  | .fNoop z d => Sys2Proof.Machine.execFNoop z d s
  | .fDigit0 z d => Sys2Proof.Machine.execFDigit0 z d s
  | .fDigit1 z d => Sys2Proof.Machine.execFDigit1 z d s
  | .fDigit2 z d => Sys2Proof.Machine.execFDigit2 z d s
  | .fDigit3 z d => Sys2Proof.Machine.execFDigit3 z d s
  | .fDigit4 z d => Sys2Proof.Machine.execFDigit4 z d s
  | .fDigit5 z d => Sys2Proof.Machine.execFDigit5 z d s
  | .fDigit6 z d => Sys2Proof.Machine.execFDigit6 z d s
  | .fDigit7 z d => Sys2Proof.Machine.execFDigit7 z d s
  | .fDecodeMode z d => Sys2Proof.Machine.execFDecodeMode z d s
  | .fIntensity z d => Sys2Proof.Machine.execFIntensity z d s
  | .fScanLimit z d => Sys2Proof.Machine.execFScanLimit z d s
  | .fShutdown z d => Sys2Proof.Machine.execFShutdown z d s
  | .fAddrD z d => Sys2Proof.Machine.execFAddrD z d s
  | .fAddrE z d => Sys2Proof.Machine.execFAddrE z d s
  | .fDisplayTest z d => Sys2Proof.Machine.execFDisplayTest z d s

end Sys2Proof.Machine
end

