-- ==== Sys2Proof/WellFormed.lean ====
section
/-! DEFINITION. Which instructions the block itself can put on the wire: a frame it emits has a zero upper nibble
(30_encoding.md R65, R78: "a frame with a non-zero `Z` field is never emitted"). Command words are all well formed:
every operation code is used and unused bits may hold anything (R73, R74). The receiver decodes ill-formed frames too (R78). -/

namespace Sys2Proof

/-- `Z = 0`, as emitted (R65). -/
def zeroFilled (z : Nibble) : Bool := z == 0

/-- The checks of 30_encoding.md R65 and R78, instruction by instruction. -/
def Instr.wellFormed : Instr → Bool
  | .initTransport _ => true
  | .txByte _ _ => true
  | .writeReg _ _ => true
  | .initDisplay _ _ => true
  | .fNoop z _ => zeroFilled z
  | .fDigit0 z _ => zeroFilled z
  | .fDigit1 z _ => zeroFilled z
  | .fDigit2 z _ => zeroFilled z
  | .fDigit3 z _ => zeroFilled z
  | .fDigit4 z _ => zeroFilled z
  | .fDigit5 z _ => zeroFilled z
  | .fDigit6 z _ => zeroFilled z
  | .fDigit7 z _ => zeroFilled z
  | .fDecodeMode z _ => zeroFilled z
  | .fIntensity z _ => zeroFilled z
  | .fScanLimit z _ => zeroFilled z
  | .fShutdown z _ => zeroFilled z
  | .fAddrD z _ => zeroFilled z
  | .fAddrE z _ => zeroFilled z
  | .fDisplayTest z _ => zeroFilled z

end Sys2Proof
end

