-- ==== Sys2Proof/Decode.lean ====
section
/-! DEFINITION. Decoding of command words (30_encoding.md R73, R74) and of frames as the receiver reads them
(R65, R77, R78), total on both; a word that belongs to neither format is rejected by name. The encoder after
it is written from the same tables (R66, R73), and the rows of spec/opcode_table.json after that. -/

namespace Sys2Proof

/-- The address a symbolic name stands for (R83: `DIGITn` is n + 1). -/
def RegName.address : RegName → Nibble
  | .noop => 0x0#4
  | .digit n => BitVec.ofNat 4 (n.val + 1)
  | .decodeMode => 0x9#4
  | .intensity => 0xA#4
  | .scanLimit => 0xB#4
  | .shutdown => 0xC#4
  | .displayTest => 0xF#4

/-- `cmd[17:16]`, `cmd[15:8]`, `cmd[7:0]` (R73). -/
def commandOp (w : Command) : BitVec 2 := w.extractLsb' 16 2

def commandA (w : Command) : Byte := w.extractLsb' 8 8

def commandD (w : Command) : Byte := w.extractLsb' 0 8

/-- The decoder of the command port: all four codes are used, no word is illegal (R73). -/
def decodeCommand (w : Command) : Instr :=
  match (commandOp w).toNat with
  | 0 => .initTransport (w.extractLsb' 0 16)
  | 1 => .txByte (commandA w) (commandD w)
  | 2 => .writeReg (commandA w) (commandD w)
  | _ => .initDisplay (commandA w) (commandD w)

/-- `frame[15:12]`, `frame[11:8]`, `frame[7:0]` (R65). -/
def frameZ (f : Frame) : Nibble := f.extractLsb' 12 4

def frameR (f : Frame) : Nibble := f.extractLsb' 8 4

def frameD (f : Frame) : Byte := f.extractLsb' 0 8

/-- The frame a receiver reads: the row is chosen by `frame[11:8]` alone (R77, R78). -/
def decodeFrame (f : Frame) : Instr :=
  match (frameR f).toNat with
  | 0x0 => .fNoop (frameZ f) (frameD f)
  | 0x1 => .fDigit0 (frameZ f) (frameD f)
  | 0x2 => .fDigit1 (frameZ f) (frameD f)
  | 0x3 => .fDigit2 (frameZ f) (frameD f)
  | 0x4 => .fDigit3 (frameZ f) (frameD f)
  | 0x5 => .fDigit4 (frameZ f) (frameD f)
  | 0x6 => .fDigit5 (frameZ f) (frameD f)
  | 0x7 => .fDigit6 (frameZ f) (frameD f)
  | 0x8 => .fDigit7 (frameZ f) (frameD f)
  | 0x9 => .fDecodeMode (frameZ f) (frameD f)
  | 0xA => .fIntensity (frameZ f) (frameD f)
  | 0xB => .fScanLimit (frameZ f) (frameD f)
  | 0xC => .fShutdown (frameZ f) (frameD f)
  | 0xD => .fAddrD (frameZ f) (frameD f)
  | 0xE => .fAddrE (frameZ f) (frameD f)
  | _ => .fDisplayTest (frameZ f) (frameD f)

/-- A word of one of the two formats (R81: every frame is 16 bits, every command word 18 bits). -/
inductive Encoded where
  | command (w : Command)
  | frame (f : Frame)
  deriving DecidableEq, Repr

/-- The decoder of both formats, total. -/
def decode : Encoded → Instr
  | .command w => decodeCommand w
  | .frame f => decodeFrame f

/-- Why a string of bits is no instruction. -/
inductive DecodeError where
  /-- Neither 16 bits (a frame) nor 18 (a command word, 24 in whole bytes): R81. -/
  | noFormatOfThisWidth
  /-- A bit is set above the 18 of a command word or the 16 of a frame. -/
  | bitsAboveTheWord
  deriving DecidableEq, Repr

/-- The word held in `nbits` bits of value `w`, rejected by name where the bits are of no format. -/
def encodedOfBits (nbits w : Nat) : Except DecodeError Encoded :=
  if nbits = 16 then
    if w < 2 ^ 16 then .ok (.frame (BitVec.ofNat 16 w)) else .error .bitsAboveTheWord
  else if nbits = 18 ∨ nbits = 24 then
    if w < 2 ^ 18 then .ok (.command (BitVec.ofNat 18 w)) else .error .bitsAboveTheWord
  else .error .noFormatOfThisWidth

/-- The instruction in `nbits` bits of value `w`. -/
def decodeBits (nbits w : Nat) : Except DecodeError Instr :=
  match encodedOfBits nbits w with
  | .ok e => .ok (decode e)
  | .error r => .error r

/-- The host's entry to the decoder: bits numbered as spec/opcode_table.json numbers them. -/
def decodeTableWord (nbits w : Nat) : Option Instr :=
  match decodeBits nbits w with
  | .ok i => some i
  | .error _ => none

/-- `{op, a, d}`, 18 bits (R73). -/
def commandWord (op : BitVec 2) (a d : Byte) : Command := (op ++ a) ++ d

/-- `{z, r, d}`, 16 bits (R65). -/
def frameWord (z r : Nibble) (d : Byte) : Frame := (z ++ r) ++ d

/-- The encoder, from the encodings of R73 and R65. -/
def encode : Instr → Encoded
  | .initTransport u => .command (commandWord 0 (u.extractLsb' 8 8) (u.extractLsb' 0 8))
  | .txByte u v => .command (commandWord 1 u v)
  | .writeReg a d => .command (commandWord 2 a d)
  | .initDisplay u i => .command (commandWord 3 u i)
  | .fNoop z d => .frame (frameWord z 0x0 d)
  | .fDigit0 z d => .frame (frameWord z 0x1 d)
  | .fDigit1 z d => .frame (frameWord z 0x2 d)
  | .fDigit2 z d => .frame (frameWord z 0x3 d)
  | .fDigit3 z d => .frame (frameWord z 0x4 d)
  | .fDigit4 z d => .frame (frameWord z 0x5 d)
  | .fDigit5 z d => .frame (frameWord z 0x6 d)
  | .fDigit6 z d => .frame (frameWord z 0x7 d)
  | .fDigit7 z d => .frame (frameWord z 0x8 d)
  | .fDecodeMode z d => .frame (frameWord z 0x9 d)
  | .fIntensity z d => .frame (frameWord z 0xA d)
  | .fScanLimit z d => .frame (frameWord z 0xB d)
  | .fShutdown z d => .frame (frameWord z 0xC d)
  | .fAddrD z d => .frame (frameWord z 0xD d)
  | .fAddrE z d => .frame (frameWord z 0xE d)
  | .fDisplayTest z d => .frame (frameWord z 0xF d)

/-- One row of spec/opcode_table.json. -/
structure OpcodeRow where
  mnemonic : String
  width : Nat
  mask : Nat
  pattern : Nat
  deriving DecidableEq, Repr

/-- The rows of the command port (format CMD18). -/
def commandRows : List OpcodeRow :=
  [⟨"INIT_TRANSPORT", 18, 0x30000, 0x00000⟩, ⟨"TX_BYTE", 18, 0x30000, 0x10000⟩,
   ⟨"WRITE_REG", 18, 0x30000, 0x20000⟩, ⟨"INIT_DISPLAY", 18, 0x30000, 0x30000⟩]

/-- The rows of the wire (format FRAME16). -/
def frameRows : List OpcodeRow :=
  [⟨"F.NOOP", 16, 0x0F00, 0x0000⟩, ⟨"F.DIGIT0", 16, 0x0F00, 0x0100⟩,
   ⟨"F.DIGIT1", 16, 0x0F00, 0x0200⟩, ⟨"F.DIGIT2", 16, 0x0F00, 0x0300⟩,
   ⟨"F.DIGIT3", 16, 0x0F00, 0x0400⟩, ⟨"F.DIGIT4", 16, 0x0F00, 0x0500⟩,
   ⟨"F.DIGIT5", 16, 0x0F00, 0x0600⟩, ⟨"F.DIGIT6", 16, 0x0F00, 0x0700⟩,
   ⟨"F.DIGIT7", 16, 0x0F00, 0x0800⟩, ⟨"F.DECODEMODE", 16, 0x0F00, 0x0900⟩,
   ⟨"F.INTENSITY", 16, 0x0F00, 0x0A00⟩, ⟨"F.SCANLIMIT", 16, 0x0F00, 0x0B00⟩,
   ⟨"F.SHUTDOWN", 16, 0x0F00, 0x0C00⟩, ⟨"F.ADDR_D", 16, 0x0F00, 0x0D00⟩,
   ⟨"F.ADDR_E", 16, 0x0F00, 0x0E00⟩, ⟨"F.DISPLAYTEST", 16, 0x0F00, 0x0F00⟩]

/-- A row of the table matches the bits `w`. -/
def OpcodeRow.hits (row : OpcodeRow) (w : Nat) : Bool := w &&& row.mask == row.pattern

/-- The bits of an encoded word as a number, and its width. -/
def Encoded.bits : Encoded → Nat
  | .command w => w.toNat
  | .frame f => f.toNat

def Encoded.width : Encoded → Nat
  | .command _ => 18
  | .frame _ => 16

/-- The rows of the table for a word's format. -/
def Encoded.rows : Encoded → List OpcodeRow
  | .command _ => commandRows
  | .frame _ => frameRows

end Sys2Proof
end

