-- ==== Sys2Proof/Machine/Port.lean ====
section
/-! DEFINITION. The command port and the strobe edge: where the machine takes its next instruction from
(30_encoding.md R72, R73; 43_register_frames.md R120), and what happens in a step that takes no operation. -/

namespace Sys2Proof.Machine

/-- The command word accepted now, and the state without that request: the host presents it and `READY = 1`
(10_state.md R22 ACCEPT, 60_exceptions.md R151). -/
def State.fetch (s : State) : Option (Command × State) :=
  if s.ready then
    match s.moves with
    | .present w :: ms => some (w, { s with moves := ms })
    | .after _ (.offer w) :: ms => some (w, { s with moves := ms })
    | _ => none
  else none

/-- A host or platform event that is not an accepted operation. An operation offered while `READY = 0` is not
accepted and changes nothing (60_exceptions.md R156). -/
def State.happen (s : State) : PlatformEvent → State
  | .offer _ => s
  | .rst => s.blockReset
  | .clock runs => s.setClock runs
  | .powerCycle => s.receiverPowerCycle

/-- A step that accepts no operation: the block takes an atomic step, or host or platform act, or nothing is
enabled and time passes (the idle block of 70_reset_and_hazards.md R169, the hang of 60_exceptions.md R152). -/
def State.proceed (s : State) : State :=
  match s.quietStep with
  | some t => t
  | none =>
    match s.moves with
    | .after _ e :: ms => { s with moves := ms }.happen e
    | _ => s

/-- The frame the receiver commits in the next atomic step: the sequencer is about to raise a low strobe line after at
least 16 bits, and the frame is the last 16 (43_register_frames.md R120). -/
def State.frameDue (s : State) : Option Frame :=
  if s.busy = false ∧ s.currentMicro = some (.stb true) ∧ s.rcv.prevStrobe = false ∧ 16 ≤ s.rcv.nbits then
    some s.rcv.rshift
  else none

/-- The block with `INIT_TRANSPORT` behind it: what the `CFG` micro-operation leaves (40_transport.md R86), if
it has not run yet. -/
def State.claimed (s : State) : State :=
  if s.cfgDone then s
  else { s with cfgDone := true, clockStable := s.dutyAfterCfg, cfg := TransportCfg.legal s.params, sclk := s.params.cpol, mosi := false,
                rcv := { s.rcv with prevSclk := s.params.cpol } }

/-- The place of `STB(1)` in `wr` (10_state.md R21). -/
def commitIndex : Variant → BitVec 6
  | .cs => 3
  | .load => 2

/-- The block idle, with `w` presented and the transport configured where the operation needs it (R73). -/
def State.presenting (s : State) (w : Command) : State :=
  let t := if commandOp w = 0 then s else s.claimed
  { t with op := .none, upc := 0, txs := false, busy := false, bitcnt := 0, moves := .present w :: s.moves }

/-- The block about to raise the strobe line of a register write, with the 16 bits of `f` shifted in. -/
def State.strobing (s : State) (f : Frame) : State :=
  let t := s.claimed
  { t with op := .wr, upc := commitIndex s.params.variant, txs := false, busy := false, bitcnt := 0,
           strobe := false, moves := [],
           rcv := { t.rcv with rshift := f, nbits := 16, prevStrobe := false } }

/-- The state with an encoded word where the next step takes its instruction from. -/
def State.withEncoded (s : State) : Encoded → State
  | .command w => s.presenting w
  | .frame f => s.strobing f

end Sys2Proof.Machine
end

