-- ==== Sys2Proof/Machine/Step.lean ====
section
/-! DEFINITION. One step of the machine: the operation accepted at the command port is executed; without one, the
block, host or platform proceeds. -/

namespace Sys2Proof.Machine

/-- One step. -/
def step (s : State) : Host.Outcome State Fault Refusal :=
  match s.fetch with
  | some (w, t) => exec (decodeCommand w) t
  | none => .next s.proceed

/-- `s` with the instruction of `nbits` bits `w` where `step` takes its next one from: a command word at the port, a
frame in the receiver's shift register with the strobe's rising edge due (log entry 14). -/
def State.withFetchWord (s : State) (nbits w : Nat) : State :=
  match encodedOfBits nbits w with
  | .ok e => s.withEncoded e
  | .error _ => s

end Sys2Proof.Machine
end

