-- ==== Sys2Proof/Safety.lean ====
section
/-! DEFINITION. The vocabulary of the claims: expected wire traces (00_scope.md R13), the states in which an operation
completes, the state invariants of 10_state.md R44, and the effect of whole bytes and register writes in closed form. -/

namespace Sys2Proof.Machine

/-- `BIT(b)` (00_scope.md R13). -/
def bitTrace (cpol b : Level) : List Event := [.data b, .clock (!cpol), .clock cpol]

/-- `BYTE(v)`: most significant bit first (R13). -/
def byteTrace (cpol : Level) (v : Byte) : List Event :=
  [7, 6, 5, 4, 3, 2, 1, 0].flatMap fun k => bitTrace cpol (v.getLsbD k)

/-- The wire trace of one register write to address `r` (41_framer.md R99, R100). -/
def wrTrace (p : Params) (r : Nibble) (d : Byte) : List Event :=
  match p.variant with
  | .cs => [.strobe false] ++ byteTrace p.cpol (addressByte r) ++ byteTrace p.cpol d ++ [.strobe true]
  | .load => byteTrace p.cpol (addressByte r) ++ byteTrace p.cpol d ++ [.strobe true, .strobe false]

/-- The wire trace of a list of register writes, one after another (41_framer.md R108). -/
def writesTrace (p : Params) (ws : List (Nibble × Byte)) : List Event := ws.flatMap fun x => wrTrace p x.1 x.2

/-- The data levels at the leading edges of a trace, in time order, the data line being at `m` before it. -/
def sampledBits (cpol : Level) : Level → List Event → List Level
  | _, [] => []
  | _, .data b :: es => sampledBits cpol b es
  | m, .clock v :: es => if v = cpol then sampledBits cpol m es else m :: sampledBits cpol m es
  | m, .strobe _ :: es => sampledBits cpol m es

/-- The 16 bits of a frame in time order, `frame[15]` first (30_encoding.md R68). -/
def frameBits (f : Frame) : List Level :=
  [15, 14, 13, 12, 11, 10, 9, 8, 7, 6, 5, 4, 3, 2, 1, 0].map fun k => f.getLsbD k

/-- The strobe levels of a trace, in time order. -/
def strobeLevels (es : List Event) : List Level :=
  es.filterMap fun e => match e with
    | .strobe v => some v
    | _ => none

/-- No event of host or platform is waiting: whoever is next in `moves`, if anyone, waits for `READY`. -/
def State.undisturbed (s : State) : Bool :=
  match s.moves with
  | .after _ _ :: _ => false
  | _ => true

/-- Idle: no operation in flight, no byte in the transmitter. -/
abbrev State.idle (s : State) : Prop := s.op = .none ∧ s.busy = false

/-- The states from which every operation completes: idle, configured, the peripheral clock running (`CLOCK_RUNS`,
40_transport.md R93), nobody coming in between. -/
abbrev State.runnable (s : State) : Prop := s.idle ∧ s.cfgDone = true ∧ s.clk = true ∧ s.undisturbed = true

/-- The states from which every operation completes with the wire trace the spec gives it: the clock was stable before
`INIT_TRANSPORT` as well (60_exceptions.md R164, 70_reset_and_hazards.md R172). -/
abbrev State.able (s : State) : Prop := s.runnable ∧ s.clockStable = true

/-- The receiver after the 8 leading edges of byte `v` (43_register_frames.md R118). -/
def Receiver.shiftedIn (r : Receiver) (cpol : Level) (v : Byte) : Receiver :=
  { r with rshift := r.rshift.extractLsb' 0 8 ++ v, nbits := r.nbits + 8, prevSclk := cpol }

/-- The receiver after the events of one register write (41_framer.md R99, R100). -/
def Receiver.afterWrite (q : Receiver) (p : Params) (r : Nibble) (d : Byte) : Receiver :=
  match p.variant with
  | .cs => (((q.seeStrobe false).shiftedIn p.cpol (addressByte r)).shiftedIn p.cpol d).seeStrobe true
  | .load => (((q.shiftedIn p.cpol (addressByte r)).shiftedIn p.cpol d).seeStrobe true).seeStrobe false

/-- The receiver after a list of register writes. -/
def Receiver.afterWrites (q : Receiver) (p : Params) (ws : List (Nibble × Byte)) : Receiver :=
  ws.foldl (fun q x => q.afterWrite p x.1 x.2) q

/-- The block after `k` more bit cells (40_transport.md R90). -/
def State.afterCells : Nat → State → State
  | 0, s => s
  | k + 1, s => (s.afterCells k).bitCell

/-- The block idle again after an operation: the sequencer at rest and the holding registers dead (10_state.md R18, R22). -/
def State.finished (s : State) : State :=
  { s with op := .none, upc := 0, txs := false,
           addrHold := Config.freeNibble s.free, dataHold := Config.freeByte s.free, free := s.free + 1 }

/-- The lines, the trace and the transmitter after byte `v` (40_transport.md R91). -/
def State.sent (s : State) (v : Byte) : State :=
  { s with trace := s.trace ++ byteTrace s.params.cpol v, mosi := v.getLsbD 0, sclk := s.params.cpol,
           shift := 0, bitcnt := 0, busy := false, rcv := s.rcv.shiftedIn s.params.cpol v }

/-- The lines, the trace, the transmitter and the receiver after one register write (41_framer.md R99 to R101). -/
def State.written (s : State) (r : Nibble) (d : Byte) : State :=
  { s with trace := s.trace ++ wrTrace s.params r d, mosi := d.getLsbD 0, sclk := s.params.cpol,
           strobe := s.params.variant.idleLevel, shift := 0, bitcnt := 0, busy := false,
           rcv := s.rcv.afterWrite s.params r d }

/-- The state after the operations `is`, each issued when the one before is done. -/
def execAll : List Instr → State → Host.Outcome State Fault Refusal
  | [], s => .next s
  | i :: is, s =>
    match exec i s with
    | .next t => execAll is t
    | .fault f => .fault f
    | .refused r => .refused r

/-- The row frames `F.DIGIT0` to `F.DIGIT7` (43_register_frames.md R123 to R130). -/
def digitFrame (n : Fin 8) (z : Nibble) (d : Byte) : Instr :=
  match n with
  | 0 => .fDigit0 z d
  | 1 => .fDigit1 z d
  | 2 => .fDigit2 z d
  | 3 => .fDigit3 z d
  | 4 => .fDigit4 z d
  | 5 => .fDigit5 z d
  | 6 => .fDigit6 z d
  | 7 => .fDigit7 z d

/-- The address and the data of a frame instruction, none for an operation of the command port (30_encoding.md R77). -/
def frameTarget : Instr → Option (Nibble × Byte)
  | .initTransport _ => none
  | .txByte _ _ => none
  | .writeReg _ _ => none
  | .initDisplay _ _ => none
  | .fNoop _ d => some (0x0#4, d)
  | .fDigit0 _ d => some (0x1#4, d)
  | .fDigit1 _ d => some (0x2#4, d)
  | .fDigit2 _ d => some (0x3#4, d)
  | .fDigit3 _ d => some (0x4#4, d)
  | .fDigit4 _ d => some (0x5#4, d)
  | .fDigit5 _ d => some (0x6#4, d)
  | .fDigit6 _ d => some (0x7#4, d)
  | .fDigit7 _ d => some (0x8#4, d)
  | .fDecodeMode _ d => some (0x9#4, d)
  | .fIntensity _ d => some (0xA#4, d)
  | .fScanLimit _ d => some (0xB#4, d)
  | .fShutdown _ d => some (0xC#4, d)
  | .fAddrD _ d => some (0xD#4, d)
  | .fAddrE _ d => some (0xE#4, d)
  | .fDisplayTest _ d => some (0xF#4, d)

/-- The display shows raw bitmaps (43_register_frames.md R139, second case). -/
abbrev Receiver.showsBitmaps (r : Receiver) : Prop :=
  r.modeKnown = true ∧ r.mode = .active ∧ r.rx.read 0x9 = some 0 ∧ r.rx.read 0xB = some 7 ∧ r.testWritten = false

/-- A receiver that may be believed: it had its power-on no-op and was not refused (R120, R121). -/
abbrev Receiver.trusted (r : Receiver) : Prop := r.woken = true ∧ r.rxRefused = false

/-- The state invariants of 10_state.md R44, with the bounds of R20 and R30, the levels the receiver remembers (R39),
and the form of its register space (20_memory.md R45). -/
structure State.Inv (s : State) : Prop where
  /-- R44 (a). -/
  idle_rest : s.op = .none → s.upc = 0 ∧ s.txs = false ∧ s.busy = false
  /-- R44 (b), and the same of `TXS`. -/
  busy_txs : s.busy = true → s.txs = true
  txs_tx : s.txs = true → ∃ v, s.currentMicro = some (.tx v)
  /-- R44 (c), and the bound of R30. -/
  busy_count : s.busy = true ↔ s.bitcnt ≠ 0
  count_le : s.bitcnt.toNat ≤ 8
  /-- R44 (d). -/
  configured : s.op = .txb ∨ s.op = .wr ∨ s.op = .initD → s.cfgDone = true
  /-- R44 (e), at the block and at the receiver. -/
  clock_idle : s.cfgDone = true → s.sclk = s.params.cpol ∧ s.rcv.prevSclk = s.params.cpol
  /-- R44 (f), and the bound of R20. -/
  upc_lt : s.op ≠ .none → s.upc.toNat < s.microList.length
  /-- R39: the receiver remembers the level of the strobe line. -/
  strobe_seen : s.rcv.prevStrobe = s.strobe
  /-- R45: the register space holds its sixteen cells, in canonical form. -/
  cells_wf : s.rcv.rx.wf

end Sys2Proof.Machine
end

