-- ==== Sys2Proof/Certificates/Slice0/Obligations.lean ====
section
/-! DEFINITION. What is claimed of the machine: statements for the provers, one def each, from the numbered rules of
spec/. They hold in every state unless a hypothesis says otherwise; `State.able`, `State.runnable` and `State.idle` (Sys2Proof/Safety.lean)
are the states in which an operation completes. -/

open Sys2Proof Sys2Proof.Machine

/-- Words written out in the spec's test vectors decode to the instructions they stand for.
A command word of 18 bits is decoded at 24 bits, whole bytes, which is the model's convention (log entry 14).
(95_test_vectors.md V1, V2, V5, V9, V10; 30_encoding.md R65, R73; notes/assumptions/14.md) -/
def Obligations.KnownWordsDecode : Prop :=
  decodeTableWord 24 0x00000 = some (.initTransport 0) ∧
  decodeTableWord 24 0x0FFFF = some (.initTransport 0xFFFF) ∧
  decodeTableWord 24 0x100A5 = some (.txByte 0 0xA5) ∧
  decodeTableWord 24 0x2FFAB = some (.writeReg 0xFF 0xAB) ∧
  decodeTableWord 24 0x30008 = some (.initDisplay 0 0x08) ∧
  decodeTableWord 16 0x00FF = some (.fNoop 0 0xFF) ∧
  decodeTableWord 16 0x013C = some (.fDigit0 0 0x3C) ∧
  decodeTableWord 16 0x027E = some (.fDigit1 0 0x7E) ∧
  decodeTableWord 16 0x03FF = some (.fDigit2 0 0xFF) ∧
  decodeTableWord 16 0x0481 = some (.fDigit3 0 0x81) ∧
  decodeTableWord 16 0x0518 = some (.fDigit4 0 0x18) ∧
  decodeTableWord 16 0x0624 = some (.fDigit5 0 0x24) ∧
  decodeTableWord 16 0x0742 = some (.fDigit6 0 0x42) ∧
  decodeTableWord 16 0x0801 = some (.fDigit7 0 0x01) ∧
  decodeTableWord 16 0x09FF = some (.fDecodeMode 0 0xFF) ∧
  decodeTableWord 16 0x0A10 = some (.fIntensity 0 0x10) ∧
  decodeTableWord 16 0x0B07 = some (.fScanLimit 0 0x07) ∧
  decodeTableWord 16 0x0C01 = some (.fShutdown 0 0x01) ∧
  decodeTableWord 16 0x0D55 = some (.fAddrD 0 0x55) ∧
  decodeTableWord 16 0x0E00 = some (.fAddrE 0 0x00) ∧
  decodeTableWord 16 0x0FAB = some (.fDisplayTest 0 0xAB)

/-- Decoding an encoded instruction gives it back, and encoding a decoded word gives the word back, for every instruction and every word.
(30_encoding.md R65, R73, R77, R78; opcode_table.json) -/
def Obligations.DecodeAndEncodeAgree : Prop :=
  (∀ i : Instr, decode (encode i) = i) ∧ (∀ e : Encoded, encode (decode e) = e)

/-- Every command word and every frame matches exactly one row of the opcode table, and that row's mnemonic is the decoded instruction's.
(opcode_table.json; 30_encoding.md R73, R77) -/
def Obligations.DecoderFollowsTheOpcodeTable : Prop :=
  ∀ e : Encoded, ((e.rows.filter fun row => row.hits e.bits).map OpcodeRow.mnemonic) = [(decode e).mnemonic]

/-- Every 18-bit command word and every 16-bit frame decodes, and bits of any other width or beyond the word are rejected.
decodeTableWord answers an instruction exactly for 16 bits of value below 2^16 and for 18 bits (24 in whole bytes,
which is the model's convention, log entry 14) of value below 2^18; it then answers the frame decoder's or the
command decoder's instruction.
(30_encoding.md R73, R78, R81; notes/assumptions/14.md) -/
def Obligations.OnlyTheTwoFormatsDecode : Prop :=
  (∀ f : Frame, decodeTableWord 16 f.toNat = some (decodeFrame f)) ∧
  (∀ w : Command, decodeTableWord 24 w.toNat = some (decodeCommand w) ∧
    decodeTableWord 18 w.toNat = some (decodeCommand w)) ∧
  (∀ nbits w : Nat, (decodeTableWord nbits w).isSome = true ↔
    (nbits = 16 ∧ w < 2 ^ 16) ∨ ((nbits = 18 ∨ nbits = 24) ∧ w < 2 ^ 18))

/-- The symbolic register names stand for the addresses of the register map.
(R83) -/
def Obligations.SymbolicNamesStandForTheirAddresses : Prop :=
  RegName.noop.address = 0x0 ∧ (∀ n : Fin 8, (RegName.digit n).address.toNat = n.val + 1) ∧
  (RegName.digit 0).address = 0x1 ∧ (RegName.digit 1).address = 0x2 ∧ (RegName.digit 2).address = 0x3 ∧
  (RegName.digit 3).address = 0x4 ∧ (RegName.digit 4).address = 0x5 ∧ (RegName.digit 5).address = 0x6 ∧
  (RegName.digit 6).address = 0x7 ∧ (RegName.digit 7).address = 0x8 ∧
  RegName.decodeMode.address = 0x9 ∧ RegName.intensity.address = 0xA ∧ RegName.scanLimit.address = 0xB ∧
  RegName.shutdown.address = 0xC ∧ RegName.displayTest.address = 0xF

/-- The frame of address operand a and data operand d is {0000, a[3:0], d[7:0]}, numerically ((a AND 0x0F) << 8) OR d.
(R66) -/
def Obligations.FrameAssembly : Prop :=
  (∀ a d : Byte, (frameOf a d).extractLsb' 12 4 = 0#4 ∧ (frameOf a d).extractLsb' 8 4 = a.extractLsb' 0 4 ∧
    (frameOf a d).extractLsb' 0 8 = d ∧ (frameOf a d).toNat = ((a.toNat &&& 0x0F) <<< 8) ||| d.toNat) ∧
  frameOf 0xFF 0xAB = 0x0FAB ∧ (frameOf 0xFF 0xAB).extractLsb' 8 8 = 0x0F#8 ∧
  (frameOf 0xFF 0xAB).extractLsb' 0 8 = 0xAB#8

/-- WRITE_REG a, d transmits exactly two bytes, the first a AND 0x0F, the second d unchanged.
(R67) -/
def Obligations.WriteRegSendsExactlyTwoBytes : Prop :=
  ∀ (s : State) (a d : Byte), s.able →
    (frameOf a d).extractLsb' 8 8 = a &&& 0x0F ∧ (frameOf a d).extractLsb' 0 8 = d ∧
    ∃ t es, exec (.writeReg a d) s = .next t ∧ t.trace = s.trace ++ es ∧
      sampledBits s.params.cpol s.mosi es =
        [7, 6, 5, 4, 3, 2, 1, 0].map (fun k => (a &&& 0x0F).getLsbD k) ++
        [7, 6, 5, 4, 3, 2, 1, 0].map (fun k => d.getLsbD k)

/-- The sixteen bit cells of WRITE_REG carry frame[15] to frame[0] in time order.
(30_encoding.md R68; 20_memory.md R47, R48) -/
def Obligations.WriteRegSendsTheFrameBits : Prop :=
  ∀ (s : State) (a d : Byte), s.able →
    ∃ t es, exec (.writeReg a d) s = .next t ∧ t.trace = s.trace ++ es ∧
      sampledBits s.params.cpol s.mosi es = frameBits (frameOf a d)

/-- The address mask depends on a[3:0] only: it is idempotent and periodic with period 16.
(30_encoding.md R69, R71; 20_memory.md R46) -/
def Obligations.AddressMaskIsIdempotentAndPeriodic : Prop :=
  ∀ a k : Byte, maskAddress (a &&& 0x0F) = maskAddress a ∧ maskAddress (a + 16 * k) = maskAddress a ∧
    addressByte (maskAddress a) = a &&& 0x0F

/-- A step whose host presents a command word while READY = 1 is exec of the decoded operation, the request taken off the port.
The list of host moves is the model's (log entry 3).
(10_state.md R22 (ACCEPT); 30_encoding.md R73; 60_exceptions.md R151; notes/assumptions/3.md) -/
def Obligations.StepRunsTheAcceptedOperation : Prop :=
  ∀ (s : State) (w : Command) (ms : List HostMove), s.op = .none →
    (s.moves = .present w :: ms → step s = exec (decodeCommand w) { s with moves := ms }) ∧
    (∀ n, s.moves = .after n (.offer w) :: ms → step s = exec (decodeCommand w) { s with moves := ms })

/-- The step that raises a low strobe line after 16 bits or more is exec of the frame in RSHIFT, the strobe driven high before, the sequencer advanced after.
That with more than 16 bits the last 16 commit is the model's choice (log entry 10, PRESUMED), where
43_register_frames.md R120 says so on general knowledge and 20_memory.md R51 refuses such a frame.
(43_register_frames.md R120, R121; 41_framer.md R98; 10_state.md R22 (STB-STEP); notes/assumptions/2.md; notes/assumptions/10.md) -/
def Obligations.StepRunsTheFrameAtTheRisingEdge : Prop :=
  ∀ (s : State) (f : Frame), s.undisturbed = true → s.frameDue = some f →
    ∃ t, exec (decodeFrame f) { s with strobe := true, trace := s.trace ++ [.strobe true],
                                       rcv := { s.rcv with prevStrobe := true } } = .next t ∧
      step s = .next t.advance

/-- An operation that meets READY = 0 is not accepted: no state changes, a withdrawn request is never executed, a held one waits.
(60_exceptions.md R156; 10_state.md R23; notes/assumptions/3.md; notes/assumptions/13.md) -/
def Obligations.NothingIsAcceptedWhileNotReady : Prop :=
  ∀ s : State, s.op ≠ .none →
    (∀ u, exec (.initTransport u) s = .next s) ∧ (∀ u v, exec (.txByte u v) s = .next s) ∧
    (∀ a d, exec (.writeReg a d) s = .next s) ∧ (∀ u i, exec (.initDisplay u i) s = .next s) ∧
    (∀ w ms, s.moves = .after 0 (.offer w) :: ms → step s = .next { s with moves := ms }) ∧
    (∀ w ms, s.moves = .present w :: ms → step s = .next (s.blockStep.getD s) ∧ (s.blockStep.getD s).moves = s.moves)

/-- TX_BYTE, WRITE_REG and INIT_DISPLAY are refused while CFG_DONE = 0.
(60_exceptions.md R155; 30_encoding.md R73; 95_test_vectors.md V8) -/
def Obligations.OperationsBeforeInitTransportAreRefused : Prop :=
  ∀ s : State, s.op = .none → s.cfgDone = false →
    (∀ u v, exec (.txByte u v) s = .refused .operationBeforeInitTransport) ∧
    (∀ a d, exec (.writeReg a d) s = .refused .operationBeforeInitTransport) ∧
    (∀ u i, exec (.initDisplay u i) s = .refused .operationBeforeInitTransport)

/-- INIT_TRANSPORT, first or repeated, configures the transport and appends C(CPOL), D(0); nothing else changes, the model's mark of the clock duty aside.
That it does so also where the clock was not stable before the first INIT_TRANSPORT, which R164 and R172 put
outside the spec, is the model's choice (log entry 24); so is that the first one with the clock standing still
breaks the duty on the clock, and that nothing else in INIT_TRANSPORT touches the mark of it.
(40_transport.md R85, R86, R95; 30_encoding.md R73; 10_state.md R26; 60_exceptions.md R164; 70_reset_and_hazards.md R172; notes/assumptions/7.md; notes/assumptions/2.md; notes/assumptions/24.md) -/
def Obligations.InitTransportCompletes : Prop :=
  ∀ (s : State) (u : BitVec 16), s.idle → s.undisturbed = true →
    exec (.initTransport u) s =
      .next { s with op := .none, upc := 0, txs := false, addrHold := Config.freeNibble s.free,
                     dataHold := Config.freeByte s.free, free := s.free + 1,
                     cfg := { role := .controller, sync := .synchronous, bitOrder := .msbFirst,
                              sampleEdge := .leading, cpol := s.params.cpol, clkSrc := .peripheralClock, div := 1,
                              linesClaimed := true },
                     cfgDone := true, clockStable := s.clockStable && (s.clk || s.cfgDone),
                     sclk := s.params.cpol, mosi := false,
                     trace := s.trace ++ [.clock s.params.cpol, .data false],
                     rcv := { s.rcv with prevSclk := s.params.cpol } }

/-- TX_BYTE v appends exactly BYTE(v) and leaves the lines as the byte law says; strobe, registers of the receiver and configuration are unchanged.
(40_transport.md R87 to R91; 10_state.md R31, R32; notes/assumptions/7.md; notes/assumptions/2.md; notes/assumptions/4.md) -/
def Obligations.TxByteCompletes : Prop :=
  ∀ (s : State) (u v : Byte), s.able →
    exec (.txByte u v) s =
      .next { s with op := .none, upc := 0, txs := false, addrHold := Config.freeNibble s.free,
                     dataHold := Config.freeByte s.free, free := s.free + 1,
                     trace := s.trace ++ byteTrace s.params.cpol v, mosi := v.getLsbD 0, sclk := s.params.cpol,
                     shift := 0, bitcnt := 0, busy := false,
                     rcv := { s.rcv with rshift := s.rcv.rshift.extractLsb' 0 8 ++ v, nbits := s.rcv.nbits + 8,
                                         prevSclk := s.params.cpol } }

/-- WRITE_REG a, d completes with its whole trace, the strobe at the idle level, the transmitter at rest and the receiver having seen one register write.
(41_framer.md R97 to R101, R107; 40_transport.md R91; notes/assumptions/7.md; notes/assumptions/2.md; notes/assumptions/4.md) -/
def Obligations.WriteRegCompletes : Prop :=
  ∀ (s : State) (a d : Byte), s.able →
    exec (.writeReg a d) s =
      .next { s with op := .none, upc := 0, txs := false, addrHold := Config.freeNibble s.free,
                     dataHold := Config.freeByte s.free, free := s.free + 1,
                     trace := s.trace ++ wrTrace s.params (maskAddress a) d, mosi := d.getLsbD 0,
                     sclk := s.params.cpol, strobe := s.params.variant.idleLevel,
                     shift := 0, bitcnt := 0, busy := false,
                     rcv := s.rcv.afterWrite s.params (maskAddress a) d }

/-- INIT_DISPLAY i completes with the trace of the 13 register writes of the table, the strobe idle, and the receiver having seen those writes.
(42_init_sequence.md R109, R110, R112; 41_framer.md R97; notes/assumptions/7.md; notes/assumptions/2.md; notes/assumptions/4.md) -/
def Obligations.InitDisplayCompletes : Prop :=
  ∀ (s : State) (u i : Byte), s.able →
    exec (.initDisplay u i) s =
      .next { s with op := .none, upc := 0, txs := false, addrHold := Config.freeNibble s.free,
                     dataHold := Config.freeByte s.free, free := s.free + 1,
                     trace := s.trace ++ writesTrace s.params (initTable i), mosi := true,
                     sclk := s.params.cpol, strobe := s.params.variant.idleLevel,
                     shift := 0, bitcnt := 0, busy := false,
                     rcv := s.rcv.afterWrites s.params (initTable i) }

/-- With VARIANT = CS, WRITE_REG a, d appends S(0), BYTE(a AND 0x0F), BYTE(d), S(1): 50 events, the strobe high at the end.
(41_framer.md R99, R102) -/
def Obligations.ChipSelectTraceOfAWrite : Prop :=
  ∀ (s : State) (a d : Byte), s.able → s.params.variant = .cs →
    ∃ t, exec (.writeReg a d) s = .next t ∧
      t.trace = s.trace ++ ([.strobe false] ++ byteTrace s.params.cpol (a &&& 0x0F) ++ byteTrace s.params.cpol d ++
        [.strobe true]) ∧
      t.trace.length = s.trace.length + 50 ∧ t.strobe = true

/-- With VARIANT = LOAD, WRITE_REG a, d appends BYTE(a AND 0x0F), BYTE(d), S(1), S(0): 50 events, the strobe low at the end.
(41_framer.md R100, R102, R104) -/
def Obligations.LoadPulseTraceOfAWrite : Prop :=
  ∀ (s : State) (a d : Byte), s.able → s.params.variant = .load →
    ∃ t, exec (.writeReg a d) s = .next t ∧
      t.trace = s.trace ++ (byteTrace s.params.cpol (a &&& 0x0F) ++ byteTrace s.params.cpol d ++
        [.strobe true, .strobe false]) ∧
      t.trace.length = s.trace.length + 50 ∧ t.strobe = false

/-- After WRITE_REG and after INIT_DISPLAY the strobe line is at the variant's idle level, whatever it was before; TX_BYTE does not touch it.
That the operations complete so also with the duty on the clock broken, in runs which R164 and R172 put outside the
spec, is the model's choice (log entry 24).
(41_framer.md R101; 10_state.md R33; notes/assumptions/24.md) -/
def Obligations.StrobeIdleAfterRegisterWrites : Prop :=
  ∀ (s : State) (a d u i : Byte), s.runnable →
    (∃ t, exec (.writeReg a d) s = .next t ∧ t.idle ∧
      (s.params.variant = .cs → t.strobe = true) ∧ (s.params.variant = .load → t.strobe = false)) ∧
    (∃ t, exec (.initDisplay u i) s = .next t ∧ t.idle ∧
      (s.params.variant = .cs → t.strobe = true) ∧ (s.params.variant = .load → t.strobe = false)) ∧
    (∃ t, exec (.txByte u d) s = .next t ∧ t.idle ∧ t.strobe = s.strobe)

/-- WRITE_REG a, d and WRITE_REG (a AND 0x0F), d do the same in every state, whether they complete, wait or are refused.
(41_framer.md R105; 30_encoding.md R69) -/
def Obligations.TruncationLaw : Prop :=
  (∀ (s : State) (a d : Byte), exec (.writeReg a d) s = exec (.writeReg (a &&& 0x0F) d) s) ∧
  (∀ s : State, s.able → ∃ t es, exec (.writeReg 0xFF 0xAB) s = .next t ∧ t.trace = s.trace ++ es ∧
    sampledBits s.params.cpol s.mosi es =
      [false, false, false, false, true, true, true, true, true, false, true, false, true, false, true, true])

/-- INIT_DISPLAY i issues exactly 13 register writes in the fixed order NOOP, SCANLIMIT 7, INTENSITY i, DECODEMODE 0, DIGIT0..7 0, SHUTDOWN 1, in either variant.
(R110; R111; R112) -/
def Obligations.InitializationOrder : Prop :=
  ∀ (s : State) (u i : Byte), s.able →
    ∃ t, exec (.initDisplay u i) s = .next t ∧
      t.trace = s.trace ++
        (wrTrace s.params RegName.noop.address 0x00 ++ wrTrace s.params RegName.scanLimit.address 0x07 ++
         wrTrace s.params RegName.intensity.address i ++ wrTrace s.params RegName.decodeMode.address 0x00 ++
         wrTrace s.params (RegName.digit 0).address 0x00 ++ wrTrace s.params (RegName.digit 1).address 0x00 ++
         wrTrace s.params (RegName.digit 2).address 0x00 ++ wrTrace s.params (RegName.digit 3).address 0x00 ++
         wrTrace s.params (RegName.digit 4).address 0x00 ++ wrTrace s.params (RegName.digit 5).address 0x00 ++
         wrTrace s.params (RegName.digit 6).address 0x00 ++ wrTrace s.params (RegName.digit 7).address 0x00 ++
         wrTrace s.params RegName.shutdown.address 0x01)

/-- INIT_DISPLAY appends 650 events: 208 leading edges, 13 S(0) and 13 S(1), alternating, in either variant.
(42_init_sequence.md R114) -/
def Obligations.InitDisplayTraceSize : Prop :=
  ∀ (s : State) (u i : Byte), s.able →
    ∃ t es, exec (.initDisplay u i) s = .next t ∧ t.trace = s.trace ++ es ∧ es.length = 650 ∧
      (sampledBits s.params.cpol s.mosi es).length = 208 ∧
      (s.params.variant = .cs → strobeLevels es = (List.replicate 13 [false, true]).flatten ∧
        es.head? = some (.strobe false) ∧ es.getLast? = some (.strobe true)) ∧
      (s.params.variant = .load → strobeLevels es = (List.replicate 13 [true, false]).flatten ∧
        es.head? = some (.data false) ∧ es.getLast? = some (.strobe false))

/-- INIT_DISPLAY i leaves the wire trace, the lines and the receiver exactly as the 13 WRITE_REG operations of its table issued one after another.
(42_init_sequence.md R113; 30_encoding.md R84) -/
def Obligations.InitDisplayEqualsThirteenWrites : Prop :=
  ∀ (s : State) (u i : Byte), s.able →
    ∃ t t', exec (.initDisplay u i) s = .next t ∧
      execAll ((initTable i).map fun x => Instr.writeReg (addressByte x.1) x.2) s = .next t' ∧
      t.trace = t'.trace ∧ t.rcv = t'.rcv ∧ t.sclk = t'.sclk ∧ t.mosi = t'.mosi ∧ t.strobe = t'.strobe

/-- After INIT_DISPLAY i, the strobe idle at its start, the receiver is configured, blank and Active, whether or not it had its power-on NOOP before.
For LOAD with bits left on the wire before, the first commit comes after more than 16 bits and takes the last 16
(log entry 10, PRESUMED).
(42_init_sequence.md R116; 43_register_frames.md R121, R134, R139; 70_reset_and_hazards.md R173, R182; notes/assumptions/8.md; notes/assumptions/10.md; notes/assumptions/18.md) -/
def Obligations.InitDisplayConfiguresTheReceiver : Prop :=
  ∀ (s : State) (u i : Byte), s.able → s.rcv.rxRefused = false → s.rcv.prevStrobe = s.params.variant.idleLevel →
    ∃ t, exec (.initDisplay u i) s = .next t ∧ t.rcv.trusted ∧
      t.rcv.rx.read 0xB = some 0x07 ∧ t.rcv.rx.read 0xA = some i ∧ t.rcv.rx.read 0x9 = some 0x00 ∧
      (∀ n : Fin 8, t.rcv.rx.read (n.val + 1) = some 0x00) ∧ t.rcv.rx.read 0xC = some 0x01 ∧
      t.rcv.mode = .active ∧ t.rcv.modeKnown = true ∧
      t.rcv.rx.read 0x0 = s.rcv.rx.read 0x0 ∧ t.rcv.rx.read 0xD = s.rcv.rx.read 0xD ∧
      t.rcv.rx.read 0xE = s.rcv.rx.read 0xE ∧ t.rcv.rx.read 0xF = s.rcv.rx.read 0xF ∧
      (s.rcv.testWritten = false → ∀ n k : Fin 8, t.rcv.lit n k = some false)

/-- WRITE_REG a, d to a trusted receiver writes d to cell a[3:0] and no other; address 0 writes no cell.
With bits left on the wire and the strobe low on entry the commit comes after more than 16 bits: that the last 16
commit then is the model's choice (log entry 10, PRESUMED; 20_memory.md R51 refuses where 43_register_frames.md
R120 commits).
(20_memory.md R53, R54; 43_register_frames.md R118 to R122; 41_framer.md R103; notes/assumptions/10.md) -/
def Obligations.WriteRegReachesItsRegister : Prop :=
  ∀ (s : State) (a d : Byte), s.able → s.rcv.trusted → (s.params.variant = .load → s.rcv.prevStrobe = false) →
    ∃ t, exec (.writeReg a d) s = .next t ∧ t.rcv.trusted ∧
      (maskAddress a ≠ 0 → t.rcv.rx.read (maskAddress a).toNat = some d) ∧
      (maskAddress a = 0 → t.rcv.rx = s.rcv.rx) ∧
      (∀ k, k ≠ (maskAddress a).toNat → t.rcv.rx.read k = s.rcv.rx.read k)

/-- WRITE_REG changes no cell but the addressed one, INIT_DISPLAY none but 0x1 to 0xC, TX_BYTE and INIT_TRANSPORT none, woken or not, whatever the strobe line was.
Where the strobe level on entry makes a rising edge come after more than 16 bits, this rests on log entry 10
(PRESUMED): the last 16 commit.
(20_memory.md R54; 42_init_sequence.md R116; 43_register_frames.md R121; notes/assumptions/10.md) -/
def Obligations.RegisterWritesTouchOnlyTheirCells : Prop :=
  ∀ s : State, s.able → s.rcv.rxRefused = false →
    (∀ a d, ∃ t, exec (.writeReg a d) s = .next t ∧
      ∀ k, k ≠ (maskAddress a).toNat → t.rcv.rx.read k = s.rcv.rx.read k) ∧
    (∀ u i, ∃ t, exec (.initDisplay u i) s = .next t ∧
      ∀ k, k < 1 ∨ 0xC < k → t.rcv.rx.read k = s.rcv.rx.read k) ∧
    (∀ u v, ∃ t, exec (.txByte u v) s = .next t ∧ t.rcv.rx = s.rcv.rx) ∧
    (∀ u, ∃ t, exec (.initTransport u) s = .next t ∧ t.rcv.rx = s.rcv.rx)

/-- With VARIANT = LOAD and the strobe high on entry, WRITE_REG commits nothing and the next write does.
(41_framer.md R103; 70_reset_and_hazards.md R176) -/
def Obligations.LoadWriteIsLostOnAHighStrobe : Prop :=
  ∀ (s : State) (a d : Byte), s.able → s.params.variant = .load → s.rcv.prevStrobe = true →
    ∃ t, exec (.writeReg a d) s = .next t ∧ t.rcv.rx = s.rcv.rx ∧ t.rcv.mode = s.rcv.mode ∧
      t.rcv.modeKnown = s.rcv.modeKnown ∧ t.rcv.woken = s.rcv.woken ∧ t.rcv.testWritten = s.rcv.testWritten ∧
      t.rcv.rxRefused = s.rcv.rxRefused ∧ t.rcv.nbits = 0 ∧ t.rcv.prevStrobe = false ∧ t.strobe = false ∧ t.able ∧
      ∀ a2 d2 : Byte, ∃ u v, exec (.writeReg a2 d2) t = .next u ∧ exec (decodeFrame (frameOf a2 d2)) t = .next v ∧
        u.rcv.rx = v.rcv.rx ∧ u.rcv.mode = v.rcv.mode ∧ u.rcv.modeKnown = v.rcv.modeKnown ∧
        u.rcv.woken = v.rcv.woken ∧
        (s.rcv.trusted → maskAddress a2 ≠ 0 → u.rcv.rx.read (maskAddress a2).toNat = some d2)

/-- Two WRITE_REGs in a row to a trusted receiver both take effect in order; to one address the later wins.
With bits left on the wire and the strobe low on entry the first commit comes after more than 16 bits: that the
last 16 commit then is the model's choice (log entry 10, PRESUMED; 20_memory.md R51 refuses where
43_register_frames.md R120 commits).
(20_memory.md R56, R62; notes/assumptions/10.md) -/
def Obligations.LaterWritesWin : Prop :=
  ∀ (s : State) (a1 d1 a2 d2 : Byte), s.able → s.rcv.trusted →
    (s.params.variant = .load → s.rcv.prevStrobe = false) →
    ∃ t, execAll [.writeReg a1 d1, .writeReg a2 d2] s = .next t ∧
      (maskAddress a2 ≠ 0 → t.rcv.rx.read (maskAddress a2).toNat = some d2) ∧
      (maskAddress a1 ≠ 0 → maskAddress a1 ≠ maskAddress a2 → t.rcv.rx.read (maskAddress a1).toNat = some d1) ∧
      (∀ k, k ≠ (maskAddress a1).toNat → k ≠ (maskAddress a2).toNat → t.rcv.rx.read k = s.rcv.rx.read k)

/-- Each of F.DIGIT0 to F.DIGIT7, committed by a trusted receiver, writes its data to its own cell and nothing else.
(R123; R124; R125; R126; R127; R128; R129; R130) -/
def Obligations.DigitFramesWriteTheirRows : Prop :=
  ∀ (n : Fin 8) (z : Nibble) (d : Byte) (s : State), s.rcv.trusted →
    ∃ t, exec (digitFrame n z d) s = .next t ∧
      t.rcv.rx.read (n.val + 1) = some d ∧
      (∀ k, k ≠ n.val + 1 → t.rcv.rx.read k = s.rcv.rx.read k) ∧
      t = { s with rcv := { s.rcv with rx := t.rcv.rx } } ∧
      exec (digitFrame n z d) t = .next t ∧
      (s.rcv.showsBitmaps → ∀ k : Fin 8, t.rcv.lit n k = some (d.getLsbD k.val)) ∧
      encode (digitFrame n z d) = .frame (frameWord z (BitVec.ofNat 4 (n.val + 1)) d)

/-- F.DECODEMODE, F.INTENSITY, F.SCANLIMIT, F.ADDR_D and F.ADDR_E, committed by a trusted receiver, store the data byte in their own cell and change nothing else.
(43_register_frames.md R131, R132, R133, R136, R137; notes/assumptions/11.md) -/
def Obligations.ConfigurationFramesWriteTheirCells : Prop :=
  ∀ (z : Nibble) (d : Byte) (s : State), s.rcv.trusted →
    ∀ x ∈ [(Instr.fDecodeMode z d, 0x9), (.fIntensity z d, 0xA), (.fScanLimit z d, 0xB), (.fAddrD z d, 0xD),
        (.fAddrE z d, 0xE)],
      ∃ t, exec x.1 s = .next t ∧ t.rcv.rx.read x.2 = some d ∧
        (∀ k, k ≠ x.2 → t.rcv.rx.read k = s.rcv.rx.read k) ∧
        t = { s with rcv := { s.rcv with rx := t.rcv.rx } }

/-- F.DISPLAYTEST, committed by a trusted receiver, stores its data; what an Active display shows is unspecified from then on.
(43_register_frames.md R135, R139; 95_test_vectors.md V10; notes/assumptions/8.md; notes/assumptions/19.md; notes/assumptions/23.md) -/
def Obligations.DisplayTestFrameStoresAndHidesTheDisplay : Prop :=
  ∀ (z : Nibble) (d : Byte) (s : State), s.rcv.trusted →
    ∃ t, exec (.fDisplayTest z d) s = .next t ∧ t.rcv.rx.read 0xF = some d ∧
      (∀ k, k ≠ 0xF → t.rcv.rx.read k = s.rcv.rx.read k) ∧
      t = { s with rcv := { s.rcv with rx := t.rcv.rx, testWritten := true } } ∧
      (s.rcv.mode = .active → ∀ n k : Fin 8, t.rcv.lit n k = none)

/-- F.NOOP writes no cell and sets WOKEN, for every data byte, woken before or not.
(43_register_frames.md R122; 30_encoding.md R80) -/
def Obligations.NoopFrameOnlyWakes : Prop :=
  ∀ (z : Nibble) (d : Byte) (s : State), s.rcv.rxRefused = false →
    exec (.fNoop z d) s = .next { s with rcv := { s.rcv with woken := true } }

/-- F.SHUTDOWN, committed by a trusted receiver, stores its data; data 1 enters Active, 0 enters Shutdown, any other leaves MODE unspecified.
(43_register_frames.md R134; 10_state.md R37; notes/assumptions/7.md; notes/assumptions/8.md; notes/assumptions/25.md) -/
def Obligations.ShutdownFrameSetsTheMode : Prop :=
  ∀ (z : Nibble) (d : Byte) (s : State), s.rcv.trusted →
    ∃ t, exec (.fShutdown z d) s = .next t ∧ t.rcv.rx.read 0xC = some d ∧
      (∀ k, k ≠ 0xC → t.rcv.rx.read k = s.rcv.rx.read k) ∧
      (d = 1 → t.rcv.mode = .active ∧ t.rcv.modeKnown = true) ∧
      (d = 0 → t.rcv.mode = .shutdown ∧ t.rcv.modeKnown = true) ∧
      (d ≠ 0 → d ≠ 1 → t.rcv.modeKnown = false ∧
        t.rcv.mode = if s.rcv.modeKnown = false ∧ s.rcv.rx.read 0xC = some d then s.rcv.mode
          else Config.freeMode s.rcv.free) ∧
      t = { s with rcv := { s.rcv with rx := t.rcv.rx, mode := t.rcv.mode, modeKnown := t.rcv.modeKnown,
                                       free := t.rcv.free } }

/-- A frame other than NOOP committed before the power-on no-op leaves its cell a free value, MODE too for SHUTDOWN, and does not wake the receiver.
(43_register_frames.md R121; 10_state.md R38; 95_test_vectors.md V11; notes/assumptions/7.md; notes/assumptions/18.md) -/
def Obligations.FramesBeforeTheNoopAreNotTrusted : Prop :=
  ∀ (j : Instr) (a : Nibble) (d : Byte) (s : State), frameTarget j = some (a, d) → a ≠ 0 →
    s.rcv.woken = false → s.rcv.rxRefused = false →
    ∃ t, exec j s = .next t ∧ t.rcv.rx.read a.toNat = some (Config.freeCell s.rcv.free) ∧
      (∀ k, k ≠ a.toNat → t.rcv.rx.read k = s.rcv.rx.read k) ∧ t.rcv.woken = false ∧
      (a ≠ 0xC → t.rcv.mode = s.rcv.mode ∧ t.rcv.modeKnown = s.rcv.modeKnown) ∧
      (a = 0xC → t.rcv.mode = Config.freeMode s.rcv.free ∧ t.rcv.modeKnown = false)

/-- Once a frame was refused, every further frame leaves all cells and MODE unspecified, and the block goes on.
That the block goes on is the model's reading (log entry 9).
(43_register_frames.md R120; 95_test_vectors.md P5s; notes/assumptions/9.md; notes/assumptions/7.md; notes/assumptions/19.md) -/
def Obligations.ARefusedReceiverStaysUnspecified : Prop :=
  ∀ (j : Instr) (a : Nibble) (d : Byte) (s : State), frameTarget j = some (a, d) → s.rcv.rxRefused = true →
    ∃ t, exec j s = .next t ∧ t.rcv.rxRefused = true ∧ t.rcv.modeKnown = false ∧
      (∀ k : Fin 16, t.rcv.rx.read k.val = some (Config.freeCell (s.rcv.free + k.val))) ∧
      (∀ n k : Fin 8, t.rcv.lit n k = none) ∧ t = { s with rcv := t.rcv }

/-- Every frame instruction completes in every state and changes nothing of the block, nor the receiver's shift register, bit count and remembered line levels.
That a refused receiver goes on is the model's reading (log entry 9), and that the frames to 0xD and 0xE are stored
follows the spec's model of the receiver (log entry 11).
(43_register_frames.md R117, R121, R140; 20_memory.md R52; notes/assumptions/9.md; notes/assumptions/11.md) -/
def Obligations.FramesTouchOnlyTheReceiver : Prop :=
  ∀ (j : Instr) (a : Nibble) (d : Byte) (s : State), frameTarget j = some (a, d) →
    ∃ t, exec j s = .next t ∧ t = { s with rcv := t.rcv } ∧ t.rcv.rshift = s.rcv.rshift ∧
      t.rcv.nbits = s.rcv.nbits ∧ t.rcv.prevStrobe = s.rcv.prevStrobe ∧ t.rcv.prevSclk = s.rcv.prevSclk

/-- Two frames that differ only in frame[15:12] have the same effect on the receiver.
(R138) -/
def Obligations.UpperNibbleIsIgnored : Prop :=
  (∀ (f g : Frame) (s : State), f.extractLsb' 0 12 = g.extractLsb' 0 12 →
    exec (decodeFrame f) s = exec (decodeFrame g) s) ∧
  (∀ a d : Byte, (frameOf a d).extractLsb' 12 4 = 0#4 ∧ (decodeFrame (frameOf a d)).wellFormed = true)

/-- Command words that agree in the operation code and the used operand bits do the same in every state.
(30_encoding.md R74) -/
def Obligations.UnusedCommandBitsAreIgnored : Prop :=
  ∀ (w v : Command) (s : State), commandOp w = commandOp v →
    (commandOp w = 0 → exec (decodeCommand w) s = exec (decodeCommand v) s) ∧
    (commandOp w = 1 ∨ commandOp w = 3 → commandD w = commandD v →
      exec (decodeCommand w) s = exec (decodeCommand v) s) ∧
    (commandOp w = 2 → w.extractLsb' 0 12 = v.extractLsb' 0 12 →
      exec (decodeCommand w) s = exec (decodeCommand v) s)

/-- BUSY is set by TX-START only, and cleared only at the end of the last bit cell and by reset.
(10_state.md R24; 40_transport.md R88, R90) -/
def Obligations.BusyIsSetByTxStartAndClearedByTheEighthCell : Prop :=
  (∀ s t : State, s.blockStep = some t →
    (s.busy = false → t.busy = true →
      ∃ v, s.currentMicro = some (.tx v) ∧ s.txs = false ∧ t = { s with shift := v, bitcnt := 8, busy := true, txs := true }) ∧
    (s.busy = true → t.busy = false → t = s.bitCell ∧ t.bitcnt = 0 ∧ s.bitcnt = 1)) ∧
  (∀ s : State, (s.happen .rst).busy = false)

/-- A bit cell drives the next bit, most significant first, pulses the clock once, and is sampled once; with no stable clock before INIT_TRANSPORT its shape is free.
With the duty broken, in a run R164 calls refused, MOSI, the events, RSHIFT and NBITS are open: that such a cell
still shifts and counts down, ends with SCLK = CPOL, makes no strobe event and changes nothing else is the model's
choice (log entry 24).
The duty breaks when a running clock stops before the first INIT_TRANSPORT; no stop after it, and no start, breaks
or mends it: what counts as unstable is the model's choice too (log entry 24).
That a stopped clock does not start with a byte in flight is the model's choice (log entry 4), from R154, by which
only rst leaves a hang.
(40_transport.md R90; 43_register_frames.md R118; 10_state.md R31; 70_reset_and_hazards.md R172; 60_exceptions.md R154, R164; notes/assumptions/4.md; notes/assumptions/24.md) -/
def Obligations.OneBitCell : Prop :=
  (∀ s : State, s.clockStable = true → s.bitCell =
      { s with mosi := s.shift.getLsbD 7, sclk := s.params.cpol,
               trace := s.trace ++ [.data (s.shift.getLsbD 7), .clock (!s.params.cpol), .clock s.params.cpol],
               shift := s.shift <<< 1, bitcnt := s.bitcnt - 1,
               busy := (if s.bitcnt - 1 = 0 then false else s.busy),
               rcv := { s.rcv with rshift := s.rcv.rshift.shiftConcat (s.shift.getLsbD 7),
                                   nbits := s.rcv.nbits + 1, prevSclk := s.params.cpol } }) ∧
  (∀ s : State, s.clockStable = false → ∃ m es f n, (∀ v, Event.strobe v ∉ es) ∧ s.bitCell =
      { s with mosi := m, sclk := s.params.cpol, trace := s.trace ++ es, free := s.free + 1,
               shift := s.shift <<< 1, bitcnt := s.bitcnt - 1,
               busy := (if s.bitcnt - 1 = 0 then false else s.busy),
               rcv := { s.rcv with rshift := f, nbits := n, prevSclk := s.params.cpol } }) ∧
  (∀ (s : State) (runs : Bool) (ms : List HostMove), s.moves = .after 0 (.clock runs) :: ms →
    step s = .next { s with moves := ms, clk := runs && (s.clk || !s.busy),
                            clockStable := s.clockStable && (runs || !s.clk || s.cfgDone) })

/-- In a state that meets the invariants, sequencer and transmitter are never both enabled.
(00_scope.md R15; 60_exceptions.md R151; 10_state.md R44; notes/assumptions/12.md) -/
def Obligations.OneAgentAtATime : Prop :=
  ∀ s t : State, s.Inv → s.transmitterStep = some t → s.sequencerStep = none

/-- With a byte in flight and the peripheral clock stopped the block has no step: the hang, an infinite wait that is no final state and that only rst leaves.
Whatever else than rst host or platform do, the start of the clock included, the step leaves all of the block as it
is, so the hang stays: that the clock's start is then no move is the model's choice (log entry 4), from R154, by
which only rst leaves a hang.
Where they have it, with the duty on the clock kept, is the model's choice (log entry 24).
(60_exceptions.md R152, R153, R154; 40_transport.md R92, R93; notes/assumptions/4.md; notes/assumptions/13.md; notes/assumptions/24.md) -/
def Obligations.AStoppedClockHangsTheByteInFlight : Prop :=
  (∀ s : State, s.Inv → s.busy = true → s.clk = false →
    s.blockStep = none ∧ s.ready = false ∧ s.txs = true ∧ s.sclk = s.params.cpol ∧
    1 ≤ s.bitcnt.toNat ∧ s.bitcnt.toNat ≤ 8 ∧ (s.undisturbed = true → step s = .next s) ∧
    ((∀ n ms, s.moves ≠ .after n .rst :: ms) →
      ∃ t, step s = .next t ∧ t = { s with moves := t.moves, rcv := t.rcv })) ∧
  (∀ (s : State) (v : Byte), s.currentMicro = some (.tx v) → s.busy = false → s.txs = false → s.clk = true →
    s.blockStep = some (s.txStart v) ∧
    ∀ k ≤ 7, ∃ t, t = (s.txStart v).afterCells k ∧ t.busy = true ∧ t.bitcnt.toNat = 8 - k ∧ t.shift = v <<< k ∧
      (s.clockStable = true → t.rcv.nbits = s.rcv.nbits + k ∧
        t.trace = s.trace ++ (byteTrace s.params.cpol v).take (3 * k)) ∧
      t.blockStep = some ((s.txStart v).afterCells (k + 1)) ∧ { t with clk := false }.blockStep = none)

/-- rst puts the block in its reset state from every state, in mid-operation and from a hang too; with the clock started INIT_TRANSPORT makes it able to send again.
With rst next, the step answers a state with OP = NONE, UPC = 0, TXS = 0, CFG_DONE = 0, BUSY = 0, BITCNT = 0, READY
= 1, lines released (LINES_CLAIMED = 0 is the model's choice, log entry 22), STROBE = STROBE_RESET, TRACE empty,
the parameters unchanged, the receiver having seen only the strobe level.
With the clock started and nobody coming in, INIT_TRANSPORT then leads to a state from which every operation
completes with bit cells of defined shape, because the duty on the clock begins anew: that a clock which stood
still at rst and starts before INIT_TRANSPORT counts as stable is the model's choice (log entry 24).
(10_state.md R42; 60_exceptions.md R151, R154, R164; 70_reset_and_hazards.md R167, R168, R170; 95_test_vectors.md V13; notes/assumptions/17.md; notes/assumptions/22.md; notes/assumptions/24.md) -/
def Obligations.ResetFromAnyState : Prop :=
  ∀ (s : State) (ms : List HostMove), s.moves = .after 0 .rst :: ms →
    ∃ t, step s = .next t ∧ t.op = .none ∧ t.upc = 0 ∧ t.txs = false ∧ t.cfgDone = false ∧ t.busy = false ∧
      t.bitcnt = 0 ∧ t.ready = true ∧ t.cfg.linesClaimed = false ∧ t.strobe = s.params.strobeReset ∧
      t.trace = [] ∧ t.params = s.params ∧ t.clk = s.clk ∧ t.clockStable = true ∧ t.moves = ms ∧
      t.rcv = s.rcv.seeStrobe s.params.strobeReset ∧
      (t.undisturbed = true → ∀ u, ∃ v, exec (.initTransport u) (t.setClock true) = .next v ∧ v.able)

/-- A reset that does not raise the strobe line leaves the receiver's cells, MODE, WOKEN and RSHIFT as they were.
(43_register_frames.md R144; 70_reset_and_hazards.md R170; notes/assumptions/17.md) -/
def Obligations.ResetLeavesTheReceiverAlone : Prop :=
  ∀ (s : State) (ms : List HostMove), s.moves = .after 0 .rst :: ms →
    (s.rcv.prevStrobe = true ∨ s.params.strobeReset = false) →
    ∃ t, step s = .next t ∧ t.rcv.rx = s.rcv.rx ∧ t.rcv.mode = s.rcv.mode ∧ t.rcv.modeKnown = s.rcv.modeKnown ∧
      t.rcv.woken = s.rcv.woken ∧ t.rcv.rshift = s.rcv.rshift ∧ t.rcv.rxRefused = s.rcv.rxRefused ∧
      (s.rcv.prevStrobe = s.params.strobeReset → t.rcv.nbits = s.rcv.nbits)

/-- A reset that raises a low strobe line commits the frame if 16 bits or more were sent, and makes the receiver refuse if fewer.
That below 16 bits the step goes on with a marked receiver, where R166 lists a refusal, is the model's choice (log
entry 9).
That above 16 bits the last 16 commit is the model's choice too (log entry 10, PRESUMED; 20_memory.md R51 refuses
where 43_register_frames.md R120 commits).
(70_reset_and_hazards.md R170; 43_register_frames.md R120; 95_test_vectors.md V13; notes/assumptions/9.md; notes/assumptions/10.md; notes/assumptions/17.md) -/
def Obligations.ResetInMidFrame : Prop :=
  ∀ (s : State) (ms : List HostMove), s.moves = .after 0 .rst :: ms →
    s.rcv.prevStrobe = false → s.params.strobeReset = true →
    ∃ t, step s = .next t ∧ t.op = .none ∧
      (s.rcv.nbits < 16 → t.rcv.rxRefused = true ∧ t.rcv.modeKnown = false ∧ ∀ n k : Fin 8, t.rcv.lit n k = none) ∧
      (16 ≤ s.rcv.nbits → ∃ u, exec (decodeFrame s.rcv.rshift) { s with rcv := { s.rcv with prevStrobe := true } } =
        .next u ∧ t.rcv = u.rcv)

/-- Every step from a state that meets the invariants of R44 leads to a state that meets them.
(10_state.md R44, R20, R30, R39; 20_memory.md R45; notes/assumptions/12.md) -/
def Obligations.StepsKeepTheInvariants : Prop :=
  ∀ s t : State, s.Inv → step s = .next t → t.Inv

/-- The state right after reset meets the invariants, for every choice of the parameters.
(10_state.md R42, R44) -/
def Obligations.ResetMeetsTheInvariants : Prop :=
  (∀ p : Params, (State.resetFor p).Inv) ∧ State.reset = State.resetFor Config.params

/-- No step and no instruction changes VARIANT, CPOL or STROBE_RESET.
(00_scope.md R5, R6, R7; 10_state.md R43; notes/assumptions/1.md) -/
def Obligations.ParametersNeverChange : Prop :=
  (∀ s t : State, step s = .next t → t.params = s.params) ∧
  (∀ (i : Instr) (s t : State), exec i s = .next t → t.params = s.params)

/-- What the block, the lines, the trace and the host interface do does not depend on the receiver.
(20_memory.md R52; 10_state.md R28; 41_framer.md R107) -/
def Obligations.NothingFlowsBackFromTheReceiver : Prop :=
  ∀ (s : State) (r : Receiver),
    (∀ t, step s = .next t → ∃ r', step { s with rcv := r } = .next { t with rcv := r' }) ∧
    (∀ q, step s = .refused q → step { s with rcv := r } = .refused q)

/-- After WRITE_REG a, d the receiver's shift register holds frame(a, d), whatever it held before.
(43_register_frames.md R118) -/
def Obligations.ShiftRegisterHoldsTheFrame : Prop :=
  ∀ (s : State) (a d : Byte), s.able →
    ∃ t, exec (.writeReg a d) s = .next t ∧ t.rcv.rshift = frameOf a d ∧
      shiftedAddress t.rcv.rshift = maskAddress a ∧ shiftedData t.rcv.rshift = d

/-- From the idle strobe level WRITE_REG raises the strobe after exactly its 16 bits; WRITE_REG and INIT_DISPLAY never make the receiver refuse.
Whatever was on the wire before, the receiver is refused afterwards exactly if it was before; with more than 16
bits at the edge that is the model's choice, the last 16 commit (log entry 10, PRESUMED).
(20_memory.md R50; 43_register_frames.md R120; 41_framer.md R97; notes/assumptions/10.md) -/
def Obligations.RegisterWritesAreWellFormedFrames : Prop :=
  ∀ s : State, s.able →
    (∀ a d, s.rcv.prevStrobe = s.params.variant.idleLevel → (s.params.variant = .load → s.rcv.nbits = 0) →
      ∃ n t u, n ≤ opFuel ∧ t = (s.accept .wr (maskAddress a) d).run n ∧ t.frameDue = some (frameOf a d) ∧
        t.rcv.nbits = 16 ∧ exec (.writeReg a d) s = .next u ∧ u = t.run (opFuel - n) ∧
        u.rcv.prevStrobe = s.params.variant.idleLevel ∧ (s.params.variant = .load → u.rcv.nbits = 0)) ∧
    (∀ a d, ∃ t, exec (.writeReg a d) s = .next t ∧ t.rcv.rxRefused = s.rcv.rxRefused) ∧
    (∀ u i, ∃ t, exec (.initDisplay u i) s = .next t ∧ t.rcv.rxRefused = s.rcv.rxRefused)

/-- LIT is false in Shutdown, the row bitmap when Active with no decoding, all rows scanned and the test register untouched, and has no value otherwise.
That Shutdown is dark also after DISPLAYTEST was written is the model's choice (log entry 23).
(43_register_frames.md R139; 95_test_vectors.md V10; notes/assumptions/8.md; notes/assumptions/19.md; notes/assumptions/23.md) -/
def Obligations.WhatTheDisplayShows : Prop :=
  ∀ (r : Receiver) (n k : Fin 8),
    (r.modeKnown = false → r.lit n k = none) ∧
    (r.modeKnown = true → r.mode = .shutdown → r.lit n k = some false) ∧
    (r.showsBitmaps → r.lit n k = (r.rx.read (n.val + 1)).map fun v => v.getLsbD k.val) ∧
    (r.mode = .active → ¬r.showsBitmaps → r.lit n k = none)

/-- An atomic step of the block changes a receiver cell, MODE or what the display shows only if it raises the strobe line.
(20_memory.md R53; 43_register_frames.md R140; 41_framer.md R102; notes/assumptions/19.md) -/
def Obligations.CellsChangeOnlyAtTheRisingEdge : Prop :=
  ∀ s t : State, s.blockStep = some t →
    ¬(s.currentMicro = some (.stb true) ∧ s.rcv.prevStrobe = false) →
    t.rcv.rx = s.rcv.rx ∧ t.rcv.mode = s.rcv.mode ∧ t.rcv.modeKnown = s.rcv.modeKnown ∧
      t.rcv.woken = s.rcv.woken ∧ ∀ n k : Fin 8, t.rcv.lit n k = s.rcv.lit n k

/-- For a trusted receiver, committing the same frame twice leaves it as committing it once.
(43_register_frames.md R142; 20_memory.md R54; notes/assumptions/8.md; notes/assumptions/25.md) -/
def Obligations.CommittingTwiceIsCommittingOnce : Prop :=
  ∀ (j : Instr) (a : Nibble) (d : Byte) (s : State), frameTarget j = some (a, d) → s.rcv.trusted →
    ∃ t, exec j s = .next t ∧ t.rcv.trusted ∧ exec j t = .next t

/-- UPC stays, advances by exactly 1, or returns to 0 as the operation ends; it never skips, branches or reaches 52.
(10_state.md R20, R22) -/
def Obligations.UpcAdvancesByOne : Prop :=
  ∀ s t : State, s.Inv → s.blockStep = some t →
    s.upc.toNat ≤ 51 ∧
    ((t.op = s.op ∧ t.upc = s.upc) ∨ (t.op = s.op ∧ t.upc.toNat = s.upc.toNat + 1) ∨ (t.op = .none ∧ t.upc = 0))

/-- Events are only appended to the trace: every atomic step and every instruction keeps what was on it.
(10_state.md R34; 70_reset_and_hazards.md R168) -/
def Obligations.TheTraceOnlyGrows : Prop :=
  (∀ s t : State, s.blockStep = some t → ∃ es, t.trace = s.trace ++ es) ∧
  (∀ (i : Instr) (s t : State), exec i s = .next t → ∃ es, t.trace = s.trace ++ es)

/-- No step ends in a fault; a step is refused only as it accepts TX_BYTE, WRITE_REG or INIT_DISPLAY before INIT_TRANSPORT, and answers a next state otherwise.
That a step which raises the strobe after fewer than 16 bits answers a next state, its receiver marked, where R166
lists a refusal, is the model's choice (log entry 9).
That INIT_TRANSPORT with the duty on the clock broken answers a next state, where R164 says refused, is the model's
choice too (log entry 24).
(60_exceptions.md R147, R148, R155, R164, R166; notes/assumptions/9.md; notes/assumptions/13.md; notes/assumptions/24.md) -/
def Obligations.NoStepFaults : Prop :=
  ∀ s : State, (∃ t, step s = .next t) ∨
    ∃ w u, s.fetch = some (w, u) ∧ s.op = .none ∧ commandOp w ≠ 0 ∧ s.cfgDone = false ∧
      step s = .refused .operationBeforeInitTransport

/-- Right after reset the block is idle, unconfigured and does nothing by itself, LINES_CLAIMED 0 (the model's choice); the receiver is in Shutdown, not woken.
The spec leaves the CFG fields unspecified until INIT_TRANSPORT: that LINES_CLAIMED is 0 is the model's choice (log
entries 5 and 22), because R168 releases the lines; so is the mark of the duty on the clock (log entry 24).
(10_state.md R37, R42; 43_register_frames.md R145; 70_reset_and_hazards.md R168, R169; notes/assumptions/5.md; notes/assumptions/6.md; notes/assumptions/13.md; notes/assumptions/22.md; notes/assumptions/24.md) -/
def Obligations.ResetStateHoldsTheSpecsValues : Prop :=
  ∀ p : Params, (State.resetFor p).op = .none ∧ (State.resetFor p).upc = 0 ∧ (State.resetFor p).txs = false ∧
    (State.resetFor p).cfgDone = false ∧ (State.resetFor p).busy = false ∧ (State.resetFor p).bitcnt = 0 ∧
    (State.resetFor p).ready = true ∧ (State.resetFor p).strobe = p.strobeReset ∧
    (State.resetFor p).cfg.linesClaimed = false ∧ (State.resetFor p).trace = [] ∧
    (State.resetFor p).clockStable = true ∧
    (State.resetFor p).rcv.mode = .shutdown ∧ (State.resetFor p).rcv.nbits = 0 ∧
    (State.resetFor p).rcv.woken = false ∧
    (∀ k : Fin 16, (State.resetFor p).rcv.rx.read k.val = some (Config.freeCell k.val)) ∧
    (∀ a, 16 ≤ a → (State.resetFor p).rcv.rx.read a = none) ∧
    step (State.resetFor p) = .next (State.resetFor p)

/-- A receiver power cycle puts only the receiver back: Shutdown, not woken, trusted again after a NOOP, its cells unspecified, the display dark.
(43_register_frames.md R144, R145; 10_state.md R39; 70_reset_and_hazards.md R181; notes/assumptions/7.md; notes/assumptions/17.md; notes/assumptions/19.md) -/
def Obligations.ReceiverPowerCycle : Prop :=
  ∀ (s : State) (ms : List HostMove), s.moves = .after 0 .powerCycle :: ms →
    ∃ t, step s = .next t ∧ t = { s with moves := ms, rcv := t.rcv } ∧ t.rcv.mode = .shutdown ∧
      t.rcv.modeKnown = true ∧ t.rcv.woken = false ∧ t.rcv.nbits = 0 ∧ t.rcv.rxRefused = false ∧
      t.rcv.prevStrobe = s.strobe ∧ t.rcv.prevSclk = s.sclk ∧
      (∀ k : Fin 16, t.rcv.rx.read k.val = some (Config.freeCell (s.rcv.free + k.val))) ∧
      t.rcv.testWritten = false ∧ (∀ n k : Fin 8, t.rcv.lit n k = some false) ∧
      ∀ (z : Nibble) (d : Byte), ∃ u, exec (.fNoop z d) t = .next u ∧ u.rcv.trusted
end

