-- ==== Sys2Proof/Laws/Encoding.lean ====
section
/-! SUPPORT. The fields of command words and frames: what the field readers read of an assembled word, and that a word
is assembled from its fields. -/

namespace Sys2Proof

/-- The bits of a command word (30_encoding.md R73). -/
theorem getLsbD_commandWord (op : BitVec 2) (a d : Byte) (i : Nat) :
    (commandWord op a d).getLsbD i =
      if i < 8 then d.getLsbD i else if i - 8 < 8 then a.getLsbD (i - 8) else op.getLsbD (i - 8 - 8) := by
  rw [show (commandWord op a d).getLsbD i = _ from BitVec.getLsbD_append,
    show (op ++ a).getLsbD (i - 8) = _ from BitVec.getLsbD_append]

/-- The bits of a frame (R65). -/
theorem getLsbD_frameWord (z r : Nibble) (d : Byte) (i : Nat) :
    (frameWord z r d).getLsbD i =
      if i < 8 then d.getLsbD i else if i - 8 < 4 then r.getLsbD (i - 8) else z.getLsbD (i - 8 - 4) := by
  rw [show (frameWord z r d).getLsbD i = _ from BitVec.getLsbD_append,
    show (z ++ r).getLsbD (i - 8) = _ from BitVec.getLsbD_append]

@[simp] theorem commandOp_commandWord (op : BitVec 2) (a d : Byte) : commandOp (commandWord op a d) = op := by
  apply BitVec.eq_of_getLsbD_eq
  intro i hi
  rw [commandOp, BitVec.getLsbD_extractLsb', getLsbD_commandWord]
  rcases i with _ | _ | i <;> first | omega | simp

@[simp] theorem commandA_commandWord (op : BitVec 2) (a d : Byte) : commandA (commandWord op a d) = a := by
  apply BitVec.eq_of_getLsbD_eq
  intro i hi
  rw [commandA, BitVec.getLsbD_extractLsb', getLsbD_commandWord]
  simp [hi]

@[simp] theorem commandD_commandWord (op : BitVec 2) (a d : Byte) : commandD (commandWord op a d) = d := by
  apply BitVec.eq_of_getLsbD_eq
  intro i hi
  rw [commandD, BitVec.getLsbD_extractLsb', getLsbD_commandWord]
  simp [hi]

@[simp] theorem frameZ_frameWord (z r : Nibble) (d : Byte) : frameZ (frameWord z r d) = z := by
  apply BitVec.eq_of_getLsbD_eq
  intro i hi
  rw [frameZ, BitVec.getLsbD_extractLsb', getLsbD_frameWord]
  rcases i with _ | _ | _ | _ | i <;> first | omega | simp

@[simp] theorem frameR_frameWord (z r : Nibble) (d : Byte) : frameR (frameWord z r d) = r := by
  apply BitVec.eq_of_getLsbD_eq
  intro i hi
  rw [frameR, BitVec.getLsbD_extractLsb', getLsbD_frameWord]
  simp [hi]

@[simp] theorem frameD_frameWord (z r : Nibble) (d : Byte) : frameD (frameWord z r d) = d := by
  apply BitVec.eq_of_getLsbD_eq
  intro i hi
  rw [frameD, BitVec.getLsbD_extractLsb', getLsbD_frameWord]
  simp [hi]

/-- A command word is assembled from its fields. -/
theorem commandWord_fields (w : Command) : commandWord (commandOp w) (commandA w) (commandD w) = w := by
  apply BitVec.eq_of_getLsbD_eq
  intro i hi
  rw [getLsbD_commandWord, commandOp, commandA, commandD, BitVec.getLsbD_extractLsb', BitVec.getLsbD_extractLsb',
    BitVec.getLsbD_extractLsb']
  rcases i with _ | _ | _ | _ | _ | _ | _ | _ | _ | _ | _ | _ | _ | _ | _ | _ | _ | _ | i <;> first | omega | simp

/-- A frame is assembled from its fields. -/
theorem frameWord_fields (f : Frame) : frameWord (frameZ f) (frameR f) (frameD f) = f := by
  apply BitVec.eq_of_getLsbD_eq
  intro i hi
  rw [getLsbD_frameWord, frameZ, frameR, frameD, BitVec.getLsbD_extractLsb', BitVec.getLsbD_extractLsb',
    BitVec.getLsbD_extractLsb']
  rcases i with _ | _ | _ | _ | _ | _ | _ | _ | _ | _ | _ | _ | _ | _ | _ | _ | i <;> first | omega | simp

/-- The four operation codes and the sixteen addresses, for case splits. -/
theorem opcode_cases : ∀ o : BitVec 2, o = 0 ∨ o = 1 ∨ o = 2 ∨ o = 3 := by decide

theorem nibble_cases : ∀ r : Nibble, r = 0 ∨ r = 1 ∨ r = 2 ∨ r = 3 ∨ r = 4 ∨ r = 5 ∨ r = 6 ∨ r = 7 ∨
    r = 8 ∨ r = 9 ∨ r = 10 ∨ r = 11 ∨ r = 12 ∨ r = 13 ∨ r = 14 ∨ r = 15 := by decide

end Sys2Proof
end

