-- ==== Sys2Proof/Laws/Memory.lean ====
section
/-! SUPPORT. The laws of the receiver's register space: what a cell reads after a write, and that every operation
keeps the canonical form. -/

namespace Sys2Proof.Machine

@[simp] theorem Memory.read_nil (a : Nat) : Memory.read [] a = none := rfl

/-- A cell reads what was just written to it. -/
@[simp] theorem Memory.read_write_same (m : Memory) (a : Nat) (v : Byte) : (m.write a v).read a = some v := by
  induction m with
  | nil => simp [Memory.write, Memory.read]
  | cons c m ih =>
    obtain ⟨b, w⟩ := c
    simp only [Memory.write]
    split
    · simp [Memory.read]
    · split
      · simp [Memory.read]
      · next h => simp [Memory.read, h, ih]

/-- A write leaves every other cell alone. -/
theorem Memory.read_write_other (m : Memory) {a b : Nat} (v : Byte) (h : b ≠ a) : (m.write a v).read b = m.read b := by
  induction m with
  | nil => simp [Memory.write, Memory.read, h]
  | cons c m ih =>
    obtain ⟨k, w⟩ := c
    simp only [Memory.write]
    split
    · simp [Memory.read, h]
    · split
      · next hk => subst hk; simp [Memory.read, h]
      · simp [Memory.read, ih]

/-- Writing a cell twice is writing the second value (20_memory.md R62). -/
@[simp] theorem Memory.write_write (m : Memory) (a : Nat) (v w : Byte) : (m.write a v).write a w = m.write a w := by
  induction m with
  | nil => simp [Memory.write]
  | cons c m ih =>
    obtain ⟨k, u⟩ := c
    simp only [Memory.write]
    split
    · simp [Memory.write]
    · split
      · next hk => simp [Memory.write]
      · next h1 h2 => simp [Memory.write, h1, h2, ih]

/-- A write to a listed address of a sorted list changes no address. -/
theorem Memory.keys_write {m : Memory} {a : Nat} (v : Byte) (hs : (m.map Prod.fst).Pairwise (· < ·))
    (ha : a ∈ m.map Prod.fst) : (m.write a v).map Prod.fst = m.map Prod.fst := by
  induction m with
  | nil => cases ha
  | cons c m ih =>
    obtain ⟨b, w⟩ := c
    have hb := List.pairwise_cons.1 hs
    simp only [Memory.write]
    split
    · next hab =>
      rcases List.mem_cons.1 ha with rfl | ha
      · exact absurd hab (Nat.lt_irrefl _)
      · exact absurd (hb.1 a ha) (Nat.lt_asymm hab)
    · split
      · next hab => subst hab; rfl
      · next hab => exact congrArg (b :: ·) (ih hb.2 ((List.mem_cons.1 ha).resolve_left hab))

/-- A write to an address of the register space keeps the canonical form. -/
theorem Memory.wf_write {m : Memory} (h : m.wf) {a : Nat} (ha : a < 16) (v : Byte) : (m.write a v).wf :=
  (Memory.keys_write v (h ▸ List.pairwise_lt_range) (h ▸ List.mem_range.2 ha)).trans h

/-- Sixteen free values are in canonical form. -/
theorem Memory.wf_unspecified (n : Nat) : (Memory.unspecified n).wf := by
  simp [Memory.wf, Memory.unspecified, List.map_map, Function.comp_def]

/-- Sixteen free values, read one at a time. -/
theorem Memory.read_unspecified (n : Nat) (k : Fin 16) :
    (Memory.unspecified n).read k.val = some (Config.freeCell (n + k.val)) := by
  obtain ⟨k, hk⟩ := k
  simp only [Memory.unspecified, show List.range 16 = [0, 1, 2, 3, 4, 5, 6, 7, 8, 9, 10, 11, 12, 13, 14, 15] from rfl,
    List.map_cons, List.map_nil, Memory.read]
  rcases k with _ | _ | _ | _ | _ | _ | _ | _ | _ | _ | _ | _ | _ | _ | _ | _ | k <;> first | omega | rfl

/-- In canonical form a cell has a value exactly inside the register space (20_memory.md R45). -/
theorem Memory.read_isSome {m : Memory} (a : Nat) : (m.read a).isSome = true ↔ a ∈ m.map Prod.fst := by
  induction m with
  | nil => simp
  | cons c m ih =>
    obtain ⟨b, w⟩ := c
    by_cases h : a = b
    · simp [Memory.read, h]
    · simp [Memory.read, h, ih]

end Sys2Proof.Machine
end

