-- ==== Sys2Proof/Laws/Receiver.lean ====
section
/-! SUPPORT. What each operation of the receiver can do: which fields it leaves alone, what it writes, and that the
register space stays in canonical form. -/

namespace Sys2Proof.Machine

/-- SHUTDOWN's effect on `MODE` touches `MODE` and the counter of free values only. -/
theorem Receiver.setMode_spec (r : Receiver) (d : Byte) :
    ∃ m k n, r.setMode d = { r with mode := m, modeKnown := k, free := n } := by
  unfold Receiver.setMode
  split
  · exact ⟨_, _, _, rfl⟩
  · split
    · exact ⟨_, _, _, rfl⟩
    · split <;> exact ⟨_, _, _, rfl⟩

/-- What a commit leaves alone: the shift register, the bit count and the remembered levels. -/
theorem Receiver.commit_keeps (r : Receiver) (a : Nibble) (d : Byte) :
    (r.commit a d).rshift = r.rshift ∧ (r.commit a d).nbits = r.nbits ∧
      (r.commit a d).prevStrobe = r.prevStrobe ∧ (r.commit a d).prevSclk = r.prevSclk := by
  unfold Receiver.commit
  split
  · exact ⟨rfl, rfl, rfl, rfl⟩
  · split
    · exact ⟨rfl, rfl, rfl, rfl⟩
    · split
      · split
        · obtain ⟨m, k, n, h⟩ := Receiver.setMode_spec r d
          rw [h]
          exact ⟨rfl, rfl, rfl, rfl⟩
        · exact ⟨rfl, rfl, rfl, rfl⟩
      · exact ⟨rfl, rfl, rfl, rfl⟩

/-- SHUTDOWN data 1 and 0 (R134). -/
theorem Receiver.setMode_one (r : Receiver) : r.setMode 1 = { r with mode := .active, modeKnown := true } := if_pos rfl

theorem Receiver.setMode_zero (r : Receiver) : r.setMode 0 = { r with mode := .shutdown, modeKnown := true } := rfl

/-- Other SHUTDOWN data leave `MODE` unspecified (R134): drawn, unless the same data were the last (log entry 25). -/
theorem Receiver.setMode_other (r : Receiver) {d : Byte} (h0 : d ≠ 0) (h1 : d ≠ 1) :
    r.setMode d = if r.modeOpenFrom d then r
      else { r with mode := Config.freeMode r.free, modeKnown := false, free := r.free + 1 } := by
  unfold Receiver.setMode
  rw [if_neg h1, if_neg h0]

/-- The cases of a commit (R121), one equation each: refused before, NOOP, SHUTDOWN, another cell, not yet woken. -/
theorem Receiver.commit_refused {r : Receiver} (h : r.rxRefused = true) (a : Nibble) (d : Byte) :
    r.commit a d = r.discredit := if_pos h

theorem Receiver.commit_noop {r : Receiver} (h : r.rxRefused = false) (d : Byte) :
    r.commit 0 d = { r with woken := true } := by
  unfold Receiver.commit
  rw [if_neg (by simp [h]), if_pos rfl]

theorem Receiver.commit_shutdown {r : Receiver} (h : r.trusted) (d : Byte) :
    r.commit shutdownAddress d = (r.setMode d).writeCell shutdownAddress d := by
  unfold Receiver.commit
  rw [if_neg (by simp [h.2]), if_neg (by decide), if_pos h.1, if_pos rfl]

theorem Receiver.commit_cell {r : Receiver} (h : r.trusted) {a : Nibble} (ha : a ≠ 0) (hs : a ≠ shutdownAddress)
    (d : Byte) : r.commit a d = r.writeCell a d := by
  unfold Receiver.commit
  rw [if_neg (by simp [h.2]), if_neg ha, if_pos h.1, if_neg hs]

theorem Receiver.commit_untrusted {r : Receiver} (h : r.rxRefused = false) (hw : r.woken = false) {a : Nibble}
    (ha : a ≠ 0) (d : Byte) : r.commit a d = r.writeUntrusted a := by
  unfold Receiver.commit
  rw [if_neg (by simp [h]), if_neg ha, if_neg (by simp [hw])]

/-- A trusted receiver writes the addressed cell, but for NOOP, and no other (R121). -/
theorem Receiver.commit_rx_of_trusted {r : Receiver} (h : r.trusted) (a : Nibble) (d : Byte) :
    (r.commit a d).rx = if a = 0 then r.rx else r.rx.write a.toNat d := by
  by_cases ha : a = 0
  · rw [if_pos ha, ha, Receiver.commit_noop h.2]
  · rw [if_neg ha]
    by_cases hs : a = shutdownAddress
    · obtain ⟨m, k, n, hm⟩ := Receiver.setMode_spec r d
      rw [hs, Receiver.commit_shutdown h, hm, Receiver.writeCell]
    · rw [Receiver.commit_cell h ha hs, Receiver.writeCell]

/-- A trusted receiver stays trusted. -/
theorem Receiver.commit_trusted {r : Receiver} (h : r.trusted) (a : Nibble) (d : Byte) : (r.commit a d).trusted := by
  by_cases ha : a = 0
  · rw [ha, Receiver.commit_noop h.2]
    exact ⟨rfl, h.2⟩
  · by_cases hs : a = shutdownAddress
    · obtain ⟨m, k, n, hm⟩ := Receiver.setMode_spec r d
      rw [hs, Receiver.commit_shutdown h, hm]
      exact h
    · rw [Receiver.commit_cell h ha hs]
      exact h

/-- A commit does not make a receiver refused. -/
theorem Receiver.commit_rxRefused (r : Receiver) (a : Nibble) (d : Byte) :
    (r.commit a d).rxRefused = r.rxRefused := by
  cases h : r.rxRefused
  · by_cases hw : r.woken = true
    · exact (Receiver.commit_trusted ⟨hw, h⟩ a d).2
    · by_cases ha : a = 0
      · rw [ha, Receiver.commit_noop h]; exact h
      · rw [Receiver.commit_untrusted h (by simpa using hw) ha]; exact h
  · rw [Receiver.commit_refused h]; rfl

/-- A commit keeps the canonical form. -/
theorem Receiver.commit_wf {r : Receiver} (h : r.rx.wf) (a : Nibble) (d : Byte) : (r.commit a d).rx.wf := by
  have hw (v : Byte) : (r.rx.write a.toNat v).wf := Memory.wf_write h a.isLt v
  unfold Receiver.commit
  split
  · exact Memory.wf_unspecified _
  · split
    · exact h
    · split
      · split
        · obtain ⟨m, k, n, hm⟩ := Receiver.setMode_spec r d
          rw [hm]
          exact hw d
        · exact hw d
      · exact hw _

/-- What a rising edge leaves alone. -/
theorem Receiver.rise_keeps (r : Receiver) :
    r.rise.rshift = r.rshift ∧ r.rise.nbits = r.nbits ∧ r.rise.prevStrobe = r.prevStrobe ∧
      r.rise.prevSclk = r.prevSclk := by
  unfold Receiver.rise
  split
  · exact ⟨rfl, rfl, rfl, rfl⟩
  · exact Receiver.commit_keeps ..

theorem Receiver.rise_wf {r : Receiver} (h : r.rx.wf) : r.rise.rx.wf := by
  unfold Receiver.rise
  split
  · exact Memory.wf_unspecified _
  · exact Receiver.commit_wf h ..

/-- The receiver remembers the strobe level it saw; the clock level and the shift register stay. -/
theorem Receiver.seeStrobe_keeps (r : Receiver) (v : Level) :
    (r.seeStrobe v).prevStrobe = v ∧ (r.seeStrobe v).prevSclk = r.prevSclk ∧ (r.seeStrobe v).rshift = r.rshift := by
  unfold Receiver.seeStrobe
  split
  · have h := Receiver.rise_keeps { r with prevStrobe := true }
    exact ⟨h.2.2.1, h.2.2.2, h.1⟩
  · exact ⟨rfl, rfl, rfl⟩
  · exact ⟨rfl, rfl, rfl⟩

theorem Receiver.seeStrobe_wf {r : Receiver} (h : r.rx.wf) (v : Level) : (r.seeStrobe v).rx.wf := by
  unfold Receiver.seeStrobe
  split
  · exact Receiver.rise_wf (r := { r with prevStrobe := true }) h
  · exact h
  · exact h

/-- Without a rising edge the strobe line changes no cell and no mode. -/
theorem Receiver.seeStrobe_of_no_rise {r : Receiver} {v : Level} (h : ¬(r.prevStrobe = false ∧ v = true)) :
    ∃ n, r.seeStrobe v = { r with prevStrobe := v, nbits := n } := by
  unfold Receiver.seeStrobe
  split
  · next h1 => exact absurd ⟨h1, rfl⟩ h
  · exact ⟨0, rfl⟩
  · exact ⟨r.nbits, rfl⟩

/-- A falling edge starts the bit count again (R119). -/
theorem Receiver.seeStrobe_fall {r : Receiver} (h : r.prevStrobe = true) :
    r.seeStrobe false = { r with prevStrobe := false, nbits := 0 } := by
  simp [Receiver.seeStrobe, h]

/-- A rising edge after at least 16 bits commits the last 16 (R120). -/
theorem Receiver.seeStrobe_rise {r : Receiver} (h : r.prevStrobe = false) (hn : 16 ≤ r.nbits) :
    r.seeStrobe true =
      { r with prevStrobe := true }.commit (shiftedAddress r.rshift) (shiftedData r.rshift) := by
  have : ¬r.nbits < 16 := by omega
  simp [Receiver.seeStrobe, h, Receiver.rise, this]

/-- A clock event changes neither cells nor mode nor the strobe level (R118). -/
theorem Receiver.seeClock_keeps (r : Receiver) (cpol m v : Level) :
    (r.seeClock cpol m v).rx = r.rx ∧ (r.seeClock cpol m v).prevStrobe = r.prevStrobe ∧
      (r.seeClock cpol m v).prevSclk = v := by
  unfold Receiver.seeClock
  split <;> exact ⟨rfl, rfl, rfl⟩

/-- A commit neither reads nor writes the shift register, the bit count and the remembered levels. -/
theorem Receiver.commit_with (r : Receiver) (a : Nibble) (d : Byte) (f : Frame) (n : Nat) (x y : Level) :
    ({ r with rshift := f, nbits := n, prevStrobe := x, prevSclk := y } : Receiver).commit a d =
      { r.commit a d with rshift := f, nbits := n, prevStrobe := x, prevSclk := y } := by
  let q : Receiver := { r with rshift := f, nbits := n, prevStrobe := x, prevSclk := y }
  change q.commit a d = _
  by_cases hr : r.rxRefused = true
  · rw [Receiver.commit_refused hr, Receiver.commit_refused (r := q) hr]
    rfl
  · have hr : r.rxRefused = false := by simpa using hr
    by_cases ha : a = 0
    · subst ha
      rw [Receiver.commit_noop hr, Receiver.commit_noop (r := q) hr]
    · by_cases hw : r.woken = true
      · have ht : r.trusted := ⟨hw, hr⟩
        by_cases hs : a = shutdownAddress
        · subst hs
          rw [Receiver.commit_shutdown ht, Receiver.commit_shutdown (r := q) ht]
          unfold Receiver.setMode
          split
          · rfl
          · split
            · rfl
            · by_cases hm : r.modeOpenFrom d
              · rw [if_pos hm, if_pos (show q.modeOpenFrom d from hm)]
                rfl
              · rw [if_neg hm, if_neg (show ¬q.modeOpenFrom d from hm)]
                rfl
        · rw [Receiver.commit_cell ht ha hs, Receiver.commit_cell (r := q) ht ha hs]
          rfl
      · have hw : r.woken = false := by simpa using hw
        rw [Receiver.commit_untrusted hr hw ha, Receiver.commit_untrusted (r := q) hr hw ha]
        rfl

/-- Two bytes shifted in fill the register with the frame (R118). -/
theorem shiftedIn_frame (f : Frame) (r : Nibble) (d : Byte) :
    (f.extractLsb' 0 8 ++ addressByte r : Frame).extractLsb' 0 8 ++ d = frameWord 0 r d := by
  apply BitVec.eq_of_getLsbD_eq
  intro i hi
  rw [show ((f.extractLsb' 0 8 ++ addressByte r : Frame).extractLsb' 0 8 ++ d : Frame).getLsbD i = _ from
      BitVec.getLsbD_append, getLsbD_frameWord, BitVec.getLsbD_extractLsb',
    show (f.extractLsb' 0 8 ++ addressByte r : Frame).getLsbD (0 + (i - 8)) = _ from BitVec.getLsbD_append]
  rcases i with _ | _ | _ | _ | _ | _ | _ | _ | _ | _ | _ | _ | _ | _ | _ | _ | i <;>
    first | omega | simp [addressByte]

/-- A register write that raises a low strobe line commits its address and data (41_framer.md R97, R103). -/
theorem Receiver.afterWrite_commits {q : Receiver} {p : Params} (h : p.variant = .load → q.prevStrobe = false)
    (r : Nibble) (d : Byte) :
    ∃ n, q.afterWrite p r d =
      { q.commit r d with rshift := frameWord 0 r d, nbits := n, prevStrobe := p.variant.idleLevel,
                          prevSclk := p.cpol } := by
  have hr : shiftedAddress (frameWord 0 r d) = r := frameR_frameWord 0 r d
  have hd : shiftedData (frameWord 0 r d) = d := frameD_frameWord 0 r d
  cases hv : p.variant
  · obtain ⟨n, hn⟩ := Receiver.seeStrobe_of_no_rise (r := q) (v := false) (by simp)
    refine ⟨n + 8 + 8, ?_⟩
    simp only [Receiver.afterWrite, hv, hn]
    rw [Receiver.seeStrobe_rise (by rfl) (by simp [Receiver.shiftedIn])]
    simp only [Receiver.shiftedIn, shiftedIn_frame, hr, hd]
    exact Receiver.commit_with q r d _ _ _ _
  · refine ⟨0, ?_⟩
    simp only [Receiver.afterWrite, hv]
    rw [Receiver.seeStrobe_rise (r := (q.shiftedIn p.cpol (addressByte r)).shiftedIn p.cpol d) (h hv)
      (by simp [Receiver.shiftedIn])]
    simp only [Receiver.shiftedIn, shiftedIn_frame, hr, hd]
    rw [Receiver.commit_with q r d]
    rfl

/-- A LOAD write that finds the strobe line high commits nothing (41_framer.md R103). -/
theorem Receiver.afterWrite_lost {q : Receiver} {p : Params} (hv : p.variant = .load) (h : q.prevStrobe = true)
    (r : Nibble) (d : Byte) :
    q.afterWrite p r d =
      { q with rshift := frameWord 0 r d, nbits := 0, prevStrobe := false, prevSclk := p.cpol } := by
  simp only [Receiver.afterWrite, hv]
  simp only [Receiver.shiftedIn, shiftedIn_frame, Receiver.seeStrobe, h]

end Sys2Proof.Machine
end

