-- ==== Sys2Proof/Laws/Frames.lean ====
section
/-! SUPPORT. The frame instructions all at once: each is the commit of its address and data at the receiver, and the
frame in a word has the address and data of the word's fields. -/

namespace Sys2Proof.Machine

/-- Executing a frame is committing it (43_register_frames.md R121). -/
theorem exec_frame {j : Instr} {a : Nibble} {d : Byte} (h : frameTarget j = some (a, d)) (s : State) :
    exec j s = .next (s.commitFrame a d) := by
  cases j <;> cases h <;> rfl

/-- The target of a decoded frame is `frame[11:8]`, `frame[7:0]` (30_encoding.md R77). -/
theorem frameTarget_decodeFrame (f : Frame) : frameTarget (decodeFrame f) = some (frameR f, frameD f) := by
  rcases nibble_cases (frameR f) with h | h | h | h | h | h | h | h | h | h | h | h | h | h | h | h <;>
    rw [h] <;> simp only [decodeFrame, h] <;> rfl

/-- The target of a row frame (R123 to R130). -/
theorem frameTarget_digitFrame (n : Fin 8) (z : Nibble) (d : Byte) :
    frameTarget (digitFrame n z d) = some (BitVec.ofNat 4 (n.val + 1), d) := by
  match n with
  | 0 => rfl
  | 1 => rfl
  | 2 => rfl
  | 3 => rfl
  | 4 => rfl
  | 5 => rfl
  | 6 => rfl
  | 7 => rfl

end Sys2Proof.Machine
end

