-- ==== Sys2Proof/Laws/PerInstr.lean ====
section
/-! SUPPORT. Per instruction: which instructions the block can put on the wire, read off their encodings, and where a
frame's address and data stand in it. -/

namespace Sys2Proof.Laws.Emission

open Sys2Proof Sys2Proof.Machine

/-- An instruction is well formed exactly when its word is a command word or a frame with a zero upper nibble (30_encoding.md
R65, R78), and a frame's target is `frame[11:8]` and `frame[7:0]` of its word (R77). -/
def Statement (i : Instr) : Prop :=
  (i.wellFormed = true ↔ ∀ f, encode i = .frame f → frameZ f = 0) ∧
    frameTarget i = match encode i with
      | .frame f => some (frameR f, frameD f)
      | .command _ => none

theorem of_command {i : Instr} {w : Command} (he : encode i = .command w) (hw : i.wellFormed = true)
    (ht : frameTarget i = none) : Statement i := by
  refine ⟨iff_of_true hw fun f hf => ?_, ?_⟩
  · rw [he] at hf; cases hf
  · rw [he, ht]

theorem of_frame {i : Instr} {z r : Nibble} {d : Byte} (he : encode i = .frame (frameWord z r d))
    (hw : i.wellFormed = zeroFilled z) (ht : frameTarget i = some (r, d)) : Statement i := by
  refine ⟨?_, ?_⟩
  · rw [hw, he]
    refine ⟨fun h f hf => ?_, fun h => ?_⟩
    · cases hf
      rw [frameZ_frameWord]
      simpa [zeroFilled] using h
    · have := h _ rfl
      rw [frameZ_frameWord] at this
      simp [zeroFilled, this]
  · rw [he, ht]
    simp only [frameR_frameWord, frameD_frameWord]

theorem initTransport (u : BitVec 16) : Statement (.initTransport u) := of_command rfl rfl rfl

theorem txByte (u v : Byte) : Statement (.txByte u v) := of_command rfl rfl rfl

theorem writeReg (a d : Byte) : Statement (.writeReg a d) := of_command rfl rfl rfl

theorem initDisplay (u i : Byte) : Statement (.initDisplay u i) := of_command rfl rfl rfl

theorem fNoop (z : Nibble) (d : Byte) : Statement (.fNoop z d) := of_frame rfl rfl rfl

theorem fDigit0 (z : Nibble) (d : Byte) : Statement (.fDigit0 z d) := of_frame rfl rfl rfl

theorem fDigit1 (z : Nibble) (d : Byte) : Statement (.fDigit1 z d) := of_frame rfl rfl rfl

theorem fDigit2 (z : Nibble) (d : Byte) : Statement (.fDigit2 z d) := of_frame rfl rfl rfl

theorem fDigit3 (z : Nibble) (d : Byte) : Statement (.fDigit3 z d) := of_frame rfl rfl rfl

theorem fDigit4 (z : Nibble) (d : Byte) : Statement (.fDigit4 z d) := of_frame rfl rfl rfl

theorem fDigit5 (z : Nibble) (d : Byte) : Statement (.fDigit5 z d) := of_frame rfl rfl rfl

theorem fDigit6 (z : Nibble) (d : Byte) : Statement (.fDigit6 z d) := of_frame rfl rfl rfl

theorem fDigit7 (z : Nibble) (d : Byte) : Statement (.fDigit7 z d) := of_frame rfl rfl rfl

theorem fDecodeMode (z : Nibble) (d : Byte) : Statement (.fDecodeMode z d) := of_frame rfl rfl rfl

theorem fIntensity (z : Nibble) (d : Byte) : Statement (.fIntensity z d) := of_frame rfl rfl rfl

theorem fScanLimit (z : Nibble) (d : Byte) : Statement (.fScanLimit z d) := of_frame rfl rfl rfl

theorem fShutdown (z : Nibble) (d : Byte) : Statement (.fShutdown z d) := of_frame rfl rfl rfl

theorem fAddrD (z : Nibble) (d : Byte) : Statement (.fAddrD z d) := of_frame rfl rfl rfl

theorem fAddrE (z : Nibble) (d : Byte) : Statement (.fAddrE z d) := of_frame rfl rfl rfl

theorem fDisplayTest (z : Nibble) (d : Byte) : Statement (.fDisplayTest z d) := of_frame rfl rfl rfl

end Sys2Proof.Laws.Emission
end

