-- ==== Sys2Proof/Laws/State.lean ====
section
/-! SUPPORT. One lemma per field per named update of the state, true by rfl, so that no proof unfolds a record update;
and what a bit cell does whatever its shape. -/

namespace Sys2Proof.Machine

/-! Emitting an event. -/
@[simp] theorem State.emit_params (s : State) (e : Event) : (s.emit e).params = s.params := rfl
@[simp] theorem State.emit_op (s : State) (e : Event) : (s.emit e).op = s.op := rfl
@[simp] theorem State.emit_upc (s : State) (e : Event) : (s.emit e).upc = s.upc := rfl
@[simp] theorem State.emit_txs (s : State) (e : Event) : (s.emit e).txs = s.txs := rfl
@[simp] theorem State.emit_addrHold (s : State) (e : Event) : (s.emit e).addrHold = s.addrHold := rfl
@[simp] theorem State.emit_dataHold (s : State) (e : Event) : (s.emit e).dataHold = s.dataHold := rfl
@[simp] theorem State.emit_cfgDone (s : State) (e : Event) : (s.emit e).cfgDone = s.cfgDone := rfl
@[simp] theorem State.emit_cfg (s : State) (e : Event) : (s.emit e).cfg = s.cfg := rfl
@[simp] theorem State.emit_busy (s : State) (e : Event) : (s.emit e).busy = s.busy := rfl
@[simp] theorem State.emit_shift (s : State) (e : Event) : (s.emit e).shift = s.shift := rfl
@[simp] theorem State.emit_bitcnt (s : State) (e : Event) : (s.emit e).bitcnt = s.bitcnt := rfl
@[simp] theorem State.emit_sclk (s : State) (e : Event) : (s.emit e).sclk = s.sclk := rfl
@[simp] theorem State.emit_mosi (s : State) (e : Event) : (s.emit e).mosi = s.mosi := rfl
@[simp] theorem State.emit_strobe (s : State) (e : Event) : (s.emit e).strobe = s.strobe := rfl
@[simp] theorem State.emit_trace (s : State) (e : Event) : (s.emit e).trace = s.trace ++ [e] := rfl
@[simp] theorem State.emit_rcv (s : State) (e : Event) : (s.emit e).rcv = s.rcv.see s.params.cpol s.mosi e := rfl
@[simp] theorem State.emit_clk (s : State) (e : Event) : (s.emit e).clk = s.clk := rfl
@[simp] theorem State.emit_clockStable (s : State) (e : Event) : (s.emit e).clockStable = s.clockStable := rfl
@[simp] theorem State.emit_moves (s : State) (e : Event) : (s.emit e).moves = s.moves := rfl
@[simp] theorem State.emit_free (s : State) (e : Event) : (s.emit e).free = s.free := rfl

/-! Driving the strobe line. -/
@[simp] theorem State.driveStrobe_params (s : State) (v : Level) : (s.driveStrobe v).params = s.params := rfl
@[simp] theorem State.driveStrobe_op (s : State) (v : Level) : (s.driveStrobe v).op = s.op := rfl
@[simp] theorem State.driveStrobe_upc (s : State) (v : Level) : (s.driveStrobe v).upc = s.upc := rfl
@[simp] theorem State.driveStrobe_txs (s : State) (v : Level) : (s.driveStrobe v).txs = s.txs := rfl
@[simp] theorem State.driveStrobe_addrHold (s : State) (v : Level) : (s.driveStrobe v).addrHold = s.addrHold := rfl
@[simp] theorem State.driveStrobe_dataHold (s : State) (v : Level) : (s.driveStrobe v).dataHold = s.dataHold := rfl
@[simp] theorem State.driveStrobe_cfgDone (s : State) (v : Level) : (s.driveStrobe v).cfgDone = s.cfgDone := rfl
@[simp] theorem State.driveStrobe_cfg (s : State) (v : Level) : (s.driveStrobe v).cfg = s.cfg := rfl
@[simp] theorem State.driveStrobe_busy (s : State) (v : Level) : (s.driveStrobe v).busy = s.busy := rfl
@[simp] theorem State.driveStrobe_shift (s : State) (v : Level) : (s.driveStrobe v).shift = s.shift := rfl
@[simp] theorem State.driveStrobe_bitcnt (s : State) (v : Level) : (s.driveStrobe v).bitcnt = s.bitcnt := rfl
@[simp] theorem State.driveStrobe_sclk (s : State) (v : Level) : (s.driveStrobe v).sclk = s.sclk := rfl
@[simp] theorem State.driveStrobe_mosi (s : State) (v : Level) : (s.driveStrobe v).mosi = s.mosi := rfl
@[simp] theorem State.driveStrobe_strobe (s : State) (v : Level) : (s.driveStrobe v).strobe = v := rfl
@[simp] theorem State.driveStrobe_trace (s : State) (v : Level) : (s.driveStrobe v).trace = s.trace ++ [.strobe v] := rfl
@[simp] theorem State.driveStrobe_rcv (s : State) (v : Level) : (s.driveStrobe v).rcv = s.rcv.seeStrobe v := rfl
@[simp] theorem State.driveStrobe_clk (s : State) (v : Level) : (s.driveStrobe v).clk = s.clk := rfl
@[simp] theorem State.driveStrobe_clockStable (s : State) (v : Level) : (s.driveStrobe v).clockStable = s.clockStable := rfl
@[simp] theorem State.driveStrobe_moves (s : State) (v : Level) : (s.driveStrobe v).moves = s.moves := rfl
@[simp] theorem State.driveStrobe_free (s : State) (v : Level) : (s.driveStrobe v).free = s.free := rfl

/-! Driving the data line. -/
@[simp] theorem State.driveMosi_params (s : State) (b : Level) : (s.driveMosi b).params = s.params := rfl
@[simp] theorem State.driveMosi_op (s : State) (b : Level) : (s.driveMosi b).op = s.op := rfl
@[simp] theorem State.driveMosi_upc (s : State) (b : Level) : (s.driveMosi b).upc = s.upc := rfl
@[simp] theorem State.driveMosi_txs (s : State) (b : Level) : (s.driveMosi b).txs = s.txs := rfl
@[simp] theorem State.driveMosi_addrHold (s : State) (b : Level) : (s.driveMosi b).addrHold = s.addrHold := rfl
@[simp] theorem State.driveMosi_dataHold (s : State) (b : Level) : (s.driveMosi b).dataHold = s.dataHold := rfl
@[simp] theorem State.driveMosi_cfgDone (s : State) (b : Level) : (s.driveMosi b).cfgDone = s.cfgDone := rfl
@[simp] theorem State.driveMosi_cfg (s : State) (b : Level) : (s.driveMosi b).cfg = s.cfg := rfl
@[simp] theorem State.driveMosi_busy (s : State) (b : Level) : (s.driveMosi b).busy = s.busy := rfl
@[simp] theorem State.driveMosi_shift (s : State) (b : Level) : (s.driveMosi b).shift = s.shift := rfl
@[simp] theorem State.driveMosi_bitcnt (s : State) (b : Level) : (s.driveMosi b).bitcnt = s.bitcnt := rfl
@[simp] theorem State.driveMosi_sclk (s : State) (b : Level) : (s.driveMosi b).sclk = s.sclk := rfl
@[simp] theorem State.driveMosi_mosi (s : State) (b : Level) : (s.driveMosi b).mosi = b := rfl
@[simp] theorem State.driveMosi_strobe (s : State) (b : Level) : (s.driveMosi b).strobe = s.strobe := rfl
@[simp] theorem State.driveMosi_trace (s : State) (b : Level) : (s.driveMosi b).trace = s.trace ++ [.data b] := rfl
@[simp] theorem State.driveMosi_rcv (s : State) (b : Level) : (s.driveMosi b).rcv = s.rcv := rfl
@[simp] theorem State.driveMosi_clk (s : State) (b : Level) : (s.driveMosi b).clk = s.clk := rfl
@[simp] theorem State.driveMosi_clockStable (s : State) (b : Level) : (s.driveMosi b).clockStable = s.clockStable := rfl
@[simp] theorem State.driveMosi_moves (s : State) (b : Level) : (s.driveMosi b).moves = s.moves := rfl
@[simp] theorem State.driveMosi_free (s : State) (b : Level) : (s.driveMosi b).free = s.free := rfl

/-! Driving the clock line. -/
@[simp] theorem State.driveSclk_params (s : State) (v : Level) : (s.driveSclk v).params = s.params := rfl
@[simp] theorem State.driveSclk_op (s : State) (v : Level) : (s.driveSclk v).op = s.op := rfl
@[simp] theorem State.driveSclk_upc (s : State) (v : Level) : (s.driveSclk v).upc = s.upc := rfl
@[simp] theorem State.driveSclk_txs (s : State) (v : Level) : (s.driveSclk v).txs = s.txs := rfl
@[simp] theorem State.driveSclk_addrHold (s : State) (v : Level) : (s.driveSclk v).addrHold = s.addrHold := rfl
@[simp] theorem State.driveSclk_dataHold (s : State) (v : Level) : (s.driveSclk v).dataHold = s.dataHold := rfl
@[simp] theorem State.driveSclk_cfgDone (s : State) (v : Level) : (s.driveSclk v).cfgDone = s.cfgDone := rfl
@[simp] theorem State.driveSclk_cfg (s : State) (v : Level) : (s.driveSclk v).cfg = s.cfg := rfl
@[simp] theorem State.driveSclk_busy (s : State) (v : Level) : (s.driveSclk v).busy = s.busy := rfl
@[simp] theorem State.driveSclk_shift (s : State) (v : Level) : (s.driveSclk v).shift = s.shift := rfl
@[simp] theorem State.driveSclk_bitcnt (s : State) (v : Level) : (s.driveSclk v).bitcnt = s.bitcnt := rfl
@[simp] theorem State.driveSclk_sclk (s : State) (v : Level) : (s.driveSclk v).sclk = v := rfl
@[simp] theorem State.driveSclk_mosi (s : State) (v : Level) : (s.driveSclk v).mosi = s.mosi := rfl
@[simp] theorem State.driveSclk_strobe (s : State) (v : Level) : (s.driveSclk v).strobe = s.strobe := rfl
@[simp] theorem State.driveSclk_trace (s : State) (v : Level) : (s.driveSclk v).trace = s.trace ++ [.clock v] := rfl
@[simp] theorem State.driveSclk_rcv (s : State) (v : Level) : (s.driveSclk v).rcv = s.rcv.seeClock s.params.cpol s.mosi v := rfl
@[simp] theorem State.driveSclk_clk (s : State) (v : Level) : (s.driveSclk v).clk = s.clk := rfl
@[simp] theorem State.driveSclk_clockStable (s : State) (v : Level) : (s.driveSclk v).clockStable = s.clockStable := rfl
@[simp] theorem State.driveSclk_moves (s : State) (v : Level) : (s.driveSclk v).moves = s.moves := rfl
@[simp] theorem State.driveSclk_free (s : State) (v : Level) : (s.driveSclk v).free = s.free := rfl

/-! A commit at the receiver. -/
@[simp] theorem State.commitFrame_params (s : State) (a : Nibble) (d : Byte) : (s.commitFrame a d).params = s.params := rfl
@[simp] theorem State.commitFrame_op (s : State) (a : Nibble) (d : Byte) : (s.commitFrame a d).op = s.op := rfl
@[simp] theorem State.commitFrame_upc (s : State) (a : Nibble) (d : Byte) : (s.commitFrame a d).upc = s.upc := rfl
@[simp] theorem State.commitFrame_txs (s : State) (a : Nibble) (d : Byte) : (s.commitFrame a d).txs = s.txs := rfl
@[simp] theorem State.commitFrame_addrHold (s : State) (a : Nibble) (d : Byte) : (s.commitFrame a d).addrHold = s.addrHold := rfl
@[simp] theorem State.commitFrame_dataHold (s : State) (a : Nibble) (d : Byte) : (s.commitFrame a d).dataHold = s.dataHold := rfl
@[simp] theorem State.commitFrame_cfgDone (s : State) (a : Nibble) (d : Byte) : (s.commitFrame a d).cfgDone = s.cfgDone := rfl
@[simp] theorem State.commitFrame_cfg (s : State) (a : Nibble) (d : Byte) : (s.commitFrame a d).cfg = s.cfg := rfl
@[simp] theorem State.commitFrame_busy (s : State) (a : Nibble) (d : Byte) : (s.commitFrame a d).busy = s.busy := rfl
@[simp] theorem State.commitFrame_shift (s : State) (a : Nibble) (d : Byte) : (s.commitFrame a d).shift = s.shift := rfl
@[simp] theorem State.commitFrame_bitcnt (s : State) (a : Nibble) (d : Byte) : (s.commitFrame a d).bitcnt = s.bitcnt := rfl
@[simp] theorem State.commitFrame_sclk (s : State) (a : Nibble) (d : Byte) : (s.commitFrame a d).sclk = s.sclk := rfl
@[simp] theorem State.commitFrame_mosi (s : State) (a : Nibble) (d : Byte) : (s.commitFrame a d).mosi = s.mosi := rfl
@[simp] theorem State.commitFrame_strobe (s : State) (a : Nibble) (d : Byte) : (s.commitFrame a d).strobe = s.strobe := rfl
@[simp] theorem State.commitFrame_trace (s : State) (a : Nibble) (d : Byte) : (s.commitFrame a d).trace = s.trace := rfl
@[simp] theorem State.commitFrame_rcv (s : State) (a : Nibble) (d : Byte) : (s.commitFrame a d).rcv = s.rcv.commit a d := rfl
@[simp] theorem State.commitFrame_clk (s : State) (a : Nibble) (d : Byte) : (s.commitFrame a d).clk = s.clk := rfl
@[simp] theorem State.commitFrame_clockStable (s : State) (a : Nibble) (d : Byte) : (s.commitFrame a d).clockStable = s.clockStable := rfl
@[simp] theorem State.commitFrame_moves (s : State) (a : Nibble) (d : Byte) : (s.commitFrame a d).moves = s.moves := rfl
@[simp] theorem State.commitFrame_free (s : State) (a : Nibble) (d : Byte) : (s.commitFrame a d).free = s.free := rfl

/-! The peripheral clock starting or stopping. -/
@[simp] theorem State.setClock_params (s : State) (b : Bool) : (s.setClock b).params = s.params := rfl
@[simp] theorem State.setClock_op (s : State) (b : Bool) : (s.setClock b).op = s.op := rfl
@[simp] theorem State.setClock_upc (s : State) (b : Bool) : (s.setClock b).upc = s.upc := rfl
@[simp] theorem State.setClock_txs (s : State) (b : Bool) : (s.setClock b).txs = s.txs := rfl
@[simp] theorem State.setClock_addrHold (s : State) (b : Bool) : (s.setClock b).addrHold = s.addrHold := rfl
@[simp] theorem State.setClock_dataHold (s : State) (b : Bool) : (s.setClock b).dataHold = s.dataHold := rfl
@[simp] theorem State.setClock_cfgDone (s : State) (b : Bool) : (s.setClock b).cfgDone = s.cfgDone := rfl
@[simp] theorem State.setClock_cfg (s : State) (b : Bool) : (s.setClock b).cfg = s.cfg := rfl
@[simp] theorem State.setClock_busy (s : State) (b : Bool) : (s.setClock b).busy = s.busy := rfl
@[simp] theorem State.setClock_shift (s : State) (b : Bool) : (s.setClock b).shift = s.shift := rfl
@[simp] theorem State.setClock_bitcnt (s : State) (b : Bool) : (s.setClock b).bitcnt = s.bitcnt := rfl
@[simp] theorem State.setClock_sclk (s : State) (b : Bool) : (s.setClock b).sclk = s.sclk := rfl
@[simp] theorem State.setClock_mosi (s : State) (b : Bool) : (s.setClock b).mosi = s.mosi := rfl
@[simp] theorem State.setClock_strobe (s : State) (b : Bool) : (s.setClock b).strobe = s.strobe := rfl
@[simp] theorem State.setClock_trace (s : State) (b : Bool) : (s.setClock b).trace = s.trace := rfl
@[simp] theorem State.setClock_rcv (s : State) (b : Bool) : (s.setClock b).rcv = s.rcv := rfl
@[simp] theorem State.setClock_clk (s : State) (b : Bool) : (s.setClock b).clk = (b && (s.clk || !s.busy)) := rfl
@[simp] theorem State.setClock_clockStable (s : State) (b : Bool) : (s.setClock b).clockStable = (s.clockStable && (b || !s.clk || s.cfgDone)) := rfl
@[simp] theorem State.setClock_moves (s : State) (b : Bool) : (s.setClock b).moves = s.moves := rfl
@[simp] theorem State.setClock_free (s : State) (b : Bool) : (s.setClock b).free = s.free := rfl

/-! A receiver power cycle. -/
@[simp] theorem State.receiverPowerCycle_params (s : State) : s.receiverPowerCycle.params = s.params := rfl
@[simp] theorem State.receiverPowerCycle_op (s : State) : s.receiverPowerCycle.op = s.op := rfl
@[simp] theorem State.receiverPowerCycle_upc (s : State) : s.receiverPowerCycle.upc = s.upc := rfl
@[simp] theorem State.receiverPowerCycle_txs (s : State) : s.receiverPowerCycle.txs = s.txs := rfl
@[simp] theorem State.receiverPowerCycle_addrHold (s : State) : s.receiverPowerCycle.addrHold = s.addrHold := rfl
@[simp] theorem State.receiverPowerCycle_dataHold (s : State) : s.receiverPowerCycle.dataHold = s.dataHold := rfl
@[simp] theorem State.receiverPowerCycle_cfgDone (s : State) : s.receiverPowerCycle.cfgDone = s.cfgDone := rfl
@[simp] theorem State.receiverPowerCycle_cfg (s : State) : s.receiverPowerCycle.cfg = s.cfg := rfl
@[simp] theorem State.receiverPowerCycle_busy (s : State) : s.receiverPowerCycle.busy = s.busy := rfl
@[simp] theorem State.receiverPowerCycle_shift (s : State) : s.receiverPowerCycle.shift = s.shift := rfl
@[simp] theorem State.receiverPowerCycle_bitcnt (s : State) : s.receiverPowerCycle.bitcnt = s.bitcnt := rfl
@[simp] theorem State.receiverPowerCycle_sclk (s : State) : s.receiverPowerCycle.sclk = s.sclk := rfl
@[simp] theorem State.receiverPowerCycle_mosi (s : State) : s.receiverPowerCycle.mosi = s.mosi := rfl
@[simp] theorem State.receiverPowerCycle_strobe (s : State) : s.receiverPowerCycle.strobe = s.strobe := rfl
@[simp] theorem State.receiverPowerCycle_trace (s : State) : s.receiverPowerCycle.trace = s.trace := rfl
@[simp] theorem State.receiverPowerCycle_clk (s : State) : s.receiverPowerCycle.clk = s.clk := rfl
@[simp] theorem State.receiverPowerCycle_clockStable (s : State) : s.receiverPowerCycle.clockStable = s.clockStable := rfl
@[simp] theorem State.receiverPowerCycle_moves (s : State) : s.receiverPowerCycle.moves = s.moves := rfl
@[simp] theorem State.receiverPowerCycle_free (s : State) : s.receiverPowerCycle.free = s.free := rfl

/-! ACCEPT. -/
@[simp] theorem State.accept_params (s : State) (o : Op) (r : Nibble) (d : Byte) : (s.accept o r d).params = s.params := rfl
@[simp] theorem State.accept_op (s : State) (o : Op) (r : Nibble) (d : Byte) : (s.accept o r d).op = o := rfl
@[simp] theorem State.accept_upc (s : State) (o : Op) (r : Nibble) (d : Byte) : (s.accept o r d).upc = 0 := rfl
@[simp] theorem State.accept_txs (s : State) (o : Op) (r : Nibble) (d : Byte) : (s.accept o r d).txs = false := rfl
@[simp] theorem State.accept_addrHold (s : State) (o : Op) (r : Nibble) (d : Byte) : (s.accept o r d).addrHold = r := rfl
@[simp] theorem State.accept_dataHold (s : State) (o : Op) (r : Nibble) (d : Byte) : (s.accept o r d).dataHold = d := rfl
@[simp] theorem State.accept_cfgDone (s : State) (o : Op) (r : Nibble) (d : Byte) : (s.accept o r d).cfgDone = s.cfgDone := rfl
@[simp] theorem State.accept_cfg (s : State) (o : Op) (r : Nibble) (d : Byte) : (s.accept o r d).cfg = s.cfg := rfl
@[simp] theorem State.accept_busy (s : State) (o : Op) (r : Nibble) (d : Byte) : (s.accept o r d).busy = s.busy := rfl
@[simp] theorem State.accept_shift (s : State) (o : Op) (r : Nibble) (d : Byte) : (s.accept o r d).shift = s.shift := rfl
@[simp] theorem State.accept_bitcnt (s : State) (o : Op) (r : Nibble) (d : Byte) : (s.accept o r d).bitcnt = s.bitcnt := rfl
@[simp] theorem State.accept_sclk (s : State) (o : Op) (r : Nibble) (d : Byte) : (s.accept o r d).sclk = s.sclk := rfl
@[simp] theorem State.accept_mosi (s : State) (o : Op) (r : Nibble) (d : Byte) : (s.accept o r d).mosi = s.mosi := rfl
@[simp] theorem State.accept_strobe (s : State) (o : Op) (r : Nibble) (d : Byte) : (s.accept o r d).strobe = s.strobe := rfl
@[simp] theorem State.accept_trace (s : State) (o : Op) (r : Nibble) (d : Byte) : (s.accept o r d).trace = s.trace := rfl
@[simp] theorem State.accept_rcv (s : State) (o : Op) (r : Nibble) (d : Byte) : (s.accept o r d).rcv = s.rcv := rfl
@[simp] theorem State.accept_clk (s : State) (o : Op) (r : Nibble) (d : Byte) : (s.accept o r d).clk = s.clk := rfl
@[simp] theorem State.accept_clockStable (s : State) (o : Op) (r : Nibble) (d : Byte) : (s.accept o r d).clockStable = s.clockStable := rfl
@[simp] theorem State.accept_moves (s : State) (o : Op) (r : Nibble) (d : Byte) : (s.accept o r d).moves = s.moves := rfl
@[simp] theorem State.accept_free (s : State) (o : Op) (r : Nibble) (d : Byte) : (s.accept o r d).free = s.free := rfl

/-! "advance". -/
@[simp] theorem State.advance_params (s : State) : s.advance.params = s.params := rfl
@[simp] theorem State.advance_op (s : State) : s.advance.op = if s.atLast then .none else s.op := rfl
@[simp] theorem State.advance_upc (s : State) : s.advance.upc = if s.atLast then 0 else s.upc + 1 := rfl
@[simp] theorem State.advance_txs (s : State) : s.advance.txs = s.txs := rfl
@[simp] theorem State.advance_addrHold (s : State) : s.advance.addrHold = if s.atLast then Config.freeNibble s.free else s.addrHold := rfl
@[simp] theorem State.advance_dataHold (s : State) : s.advance.dataHold = if s.atLast then Config.freeByte s.free else s.dataHold := rfl
@[simp] theorem State.advance_cfgDone (s : State) : s.advance.cfgDone = s.cfgDone := rfl
@[simp] theorem State.advance_cfg (s : State) : s.advance.cfg = s.cfg := rfl
@[simp] theorem State.advance_busy (s : State) : s.advance.busy = s.busy := rfl
@[simp] theorem State.advance_shift (s : State) : s.advance.shift = s.shift := rfl
@[simp] theorem State.advance_bitcnt (s : State) : s.advance.bitcnt = s.bitcnt := rfl
@[simp] theorem State.advance_sclk (s : State) : s.advance.sclk = s.sclk := rfl
@[simp] theorem State.advance_mosi (s : State) : s.advance.mosi = s.mosi := rfl
@[simp] theorem State.advance_strobe (s : State) : s.advance.strobe = s.strobe := rfl
@[simp] theorem State.advance_trace (s : State) : s.advance.trace = s.trace := rfl
@[simp] theorem State.advance_rcv (s : State) : s.advance.rcv = s.rcv := rfl
@[simp] theorem State.advance_clk (s : State) : s.advance.clk = s.clk := rfl
@[simp] theorem State.advance_clockStable (s : State) : s.advance.clockStable = s.clockStable := rfl
@[simp] theorem State.advance_moves (s : State) : s.advance.moves = s.moves := rfl
@[simp] theorem State.advance_free (s : State) : s.advance.free = if s.atLast then s.free + 1 else s.free := rfl

/-! The CFG micro-operation. -/
@[simp] theorem State.dutyAfterCfg_eq (s : State) : s.dutyAfterCfg = (s.clockStable && (s.clk || s.cfgDone)) := rfl
@[simp] theorem State.configure_params (s : State) : s.configure.params = s.params := rfl
@[simp] theorem State.configure_op (s : State) : s.configure.op = s.op := rfl
@[simp] theorem State.configure_upc (s : State) : s.configure.upc = s.upc := rfl
@[simp] theorem State.configure_txs (s : State) : s.configure.txs = s.txs := rfl
@[simp] theorem State.configure_addrHold (s : State) : s.configure.addrHold = s.addrHold := rfl
@[simp] theorem State.configure_dataHold (s : State) : s.configure.dataHold = s.dataHold := rfl
@[simp] theorem State.configure_cfgDone (s : State) : s.configure.cfgDone = true := rfl
@[simp] theorem State.configure_cfg (s : State) : s.configure.cfg = TransportCfg.legal s.params := rfl
@[simp] theorem State.configure_busy (s : State) : s.configure.busy = s.busy := rfl
@[simp] theorem State.configure_shift (s : State) : s.configure.shift = s.shift := rfl
@[simp] theorem State.configure_bitcnt (s : State) : s.configure.bitcnt = s.bitcnt := rfl
@[simp] theorem State.configure_sclk (s : State) : s.configure.sclk = s.params.cpol := rfl
@[simp] theorem State.configure_mosi (s : State) : s.configure.mosi = false := rfl
@[simp] theorem State.configure_strobe (s : State) : s.configure.strobe = s.strobe := rfl
@[simp] theorem State.configure_trace (s : State) : s.configure.trace = s.trace ++ [.clock s.params.cpol] ++ [.data false] := rfl
@[simp] theorem State.configure_rcv (s : State) : s.configure.rcv = s.rcv.seeClock s.params.cpol s.mosi s.params.cpol := rfl
@[simp] theorem State.configure_clk (s : State) : s.configure.clk = s.clk := rfl
@[simp] theorem State.configure_clockStable (s : State) : s.configure.clockStable = (s.clockStable && (s.clk || s.cfgDone)) := rfl
@[simp] theorem State.configure_moves (s : State) : s.configure.moves = s.moves := rfl
@[simp] theorem State.configure_free (s : State) : s.configure.free = s.free := rfl

/-! TX-START. -/
@[simp] theorem State.txStart_params (s : State) (v : Byte) : (s.txStart v).params = s.params := rfl
@[simp] theorem State.txStart_op (s : State) (v : Byte) : (s.txStart v).op = s.op := rfl
@[simp] theorem State.txStart_upc (s : State) (v : Byte) : (s.txStart v).upc = s.upc := rfl
@[simp] theorem State.txStart_txs (s : State) (v : Byte) : (s.txStart v).txs = true := rfl
@[simp] theorem State.txStart_addrHold (s : State) (v : Byte) : (s.txStart v).addrHold = s.addrHold := rfl
@[simp] theorem State.txStart_dataHold (s : State) (v : Byte) : (s.txStart v).dataHold = s.dataHold := rfl
@[simp] theorem State.txStart_cfgDone (s : State) (v : Byte) : (s.txStart v).cfgDone = s.cfgDone := rfl
@[simp] theorem State.txStart_cfg (s : State) (v : Byte) : (s.txStart v).cfg = s.cfg := rfl
@[simp] theorem State.txStart_busy (s : State) (v : Byte) : (s.txStart v).busy = true := rfl
@[simp] theorem State.txStart_shift (s : State) (v : Byte) : (s.txStart v).shift = v := rfl
@[simp] theorem State.txStart_bitcnt (s : State) (v : Byte) : (s.txStart v).bitcnt = 8 := rfl
@[simp] theorem State.txStart_sclk (s : State) (v : Byte) : (s.txStart v).sclk = s.sclk := rfl
@[simp] theorem State.txStart_mosi (s : State) (v : Byte) : (s.txStart v).mosi = s.mosi := rfl
@[simp] theorem State.txStart_strobe (s : State) (v : Byte) : (s.txStart v).strobe = s.strobe := rfl
@[simp] theorem State.txStart_trace (s : State) (v : Byte) : (s.txStart v).trace = s.trace := rfl
@[simp] theorem State.txStart_rcv (s : State) (v : Byte) : (s.txStart v).rcv = s.rcv := rfl
@[simp] theorem State.txStart_clk (s : State) (v : Byte) : (s.txStart v).clk = s.clk := rfl
@[simp] theorem State.txStart_clockStable (s : State) (v : Byte) : (s.txStart v).clockStable = s.clockStable := rfl
@[simp] theorem State.txStart_moves (s : State) (v : Byte) : (s.txStart v).moves = s.moves := rfl
@[simp] theorem State.txStart_free (s : State) (v : Byte) : (s.txStart v).free = s.free := rfl

/-! The end of TX-WAIT. -/
@[simp] theorem State.txEnd_params (s : State) : s.txEnd.params = s.params := rfl
@[simp] theorem State.txEnd_op (s : State) : s.txEnd.op = s.op := rfl
@[simp] theorem State.txEnd_upc (s : State) : s.txEnd.upc = s.upc := rfl
@[simp] theorem State.txEnd_txs (s : State) : s.txEnd.txs = false := rfl
@[simp] theorem State.txEnd_addrHold (s : State) : s.txEnd.addrHold = s.addrHold := rfl
@[simp] theorem State.txEnd_dataHold (s : State) : s.txEnd.dataHold = s.dataHold := rfl
@[simp] theorem State.txEnd_cfgDone (s : State) : s.txEnd.cfgDone = s.cfgDone := rfl
@[simp] theorem State.txEnd_cfg (s : State) : s.txEnd.cfg = s.cfg := rfl
@[simp] theorem State.txEnd_busy (s : State) : s.txEnd.busy = s.busy := rfl
@[simp] theorem State.txEnd_shift (s : State) : s.txEnd.shift = s.shift := rfl
@[simp] theorem State.txEnd_bitcnt (s : State) : s.txEnd.bitcnt = s.bitcnt := rfl
@[simp] theorem State.txEnd_sclk (s : State) : s.txEnd.sclk = s.sclk := rfl
@[simp] theorem State.txEnd_mosi (s : State) : s.txEnd.mosi = s.mosi := rfl
@[simp] theorem State.txEnd_strobe (s : State) : s.txEnd.strobe = s.strobe := rfl
@[simp] theorem State.txEnd_trace (s : State) : s.txEnd.trace = s.trace := rfl
@[simp] theorem State.txEnd_rcv (s : State) : s.txEnd.rcv = s.rcv := rfl
@[simp] theorem State.txEnd_clk (s : State) : s.txEnd.clk = s.clk := rfl
@[simp] theorem State.txEnd_clockStable (s : State) : s.txEnd.clockStable = s.clockStable := rfl
@[simp] theorem State.txEnd_moves (s : State) : s.txEnd.moves = s.moves := rfl
@[simp] theorem State.txEnd_free (s : State) : s.txEnd.free = s.free := rfl

/-- What a bit cell puts on the lines, whatever its shape: levels on `MOSI` and `SCLK`, no strobe event, and `SCLK` at
`CPOL` in the end; at the receiver only the shift register, the bit count and the remembered clock level change. -/
theorem State.cellLines_spec (s : State) (b : Level) :
    ∃ m es f n k, (∀ v, Event.strobe v ∉ es) ∧
      s.cellLines b = { s with mosi := m, sclk := s.params.cpol, trace := s.trace ++ es,
                               rcv := { s.rcv with rshift := f, nbits := n, prevSclk := s.params.cpol }, free := k } := by
  have hclk (r : Receiver) (cpol m v : Level) :
      ∃ f n, r.seeClock cpol m v = { r with rshift := f, nbits := n, prevSclk := v } := by
    unfold Receiver.seeClock
    split <;> exact ⟨_, _, rfl⟩
  have hfold (ws : List (Level × Level)) (s : State) :
      ∃ m c es f n p, (∀ v, Event.strobe v ∉ es) ∧
        ws.foldl State.driveLines s = { s with mosi := m, sclk := c, trace := s.trace ++ es,
                                               rcv := { s.rcv with rshift := f, nbits := n, prevSclk := p } } := by
    induction ws generalizing s with
    | nil => exact ⟨s.mosi, s.sclk, [], s.rcv.rshift, s.rcv.nbits, s.rcv.prevSclk, by simp, by simp⟩
    | cons w ws ih =>
      obtain ⟨m, c, es, f, n, p, he, h⟩ := ih (s.driveLines w)
      obtain ⟨f', n', hr⟩ := hclk s.rcv s.params.cpol w.1 w.2
      refine ⟨m, c, [.data w.1, .clock w.2] ++ es, f, n, p, by simp [he], ?_⟩
      rw [List.foldl_cons, h]
      simp only [State.driveLines, State.driveSclk, State.driveMosi, State.emit, Receiver.see, hr, List.append_assoc,
        List.cons_append, List.nil_append]
  unfold State.cellLines
  split
  · exact ⟨b, [.data b, .clock (!s.params.cpol), .clock s.params.cpol], s.rcv.rshift.shiftConcat b, s.rcv.nbits + 1, s.free,
      by simp, by simp [State.driveMosi, State.driveSclk, State.emit, Receiver.see, Receiver.seeClock]⟩
  · obtain ⟨m, c, es, f, n, p, he, h⟩ := hfold (Config.freeWave s.free) s
    rw [h]
    exact ⟨m, es ++ [.clock s.params.cpol], f, n, s.free + 1, by simp [he],
      by simp [State.driveSclk, State.emit, Receiver.see, Receiver.seeClock]⟩

/-! The bit cell. -/
@[simp] theorem State.bitCell_params (s : State) : s.bitCell.params = s.params := by
  obtain ⟨_, _, _, _, _, _, h⟩ := State.cellLines_spec s s.shift.msb
  rw [State.bitCell, h]
@[simp] theorem State.bitCell_op (s : State) : s.bitCell.op = s.op := by
  obtain ⟨_, _, _, _, _, _, h⟩ := State.cellLines_spec s s.shift.msb
  rw [State.bitCell, h]
@[simp] theorem State.bitCell_upc (s : State) : s.bitCell.upc = s.upc := by
  obtain ⟨_, _, _, _, _, _, h⟩ := State.cellLines_spec s s.shift.msb
  rw [State.bitCell, h]
@[simp] theorem State.bitCell_txs (s : State) : s.bitCell.txs = s.txs := by
  obtain ⟨_, _, _, _, _, _, h⟩ := State.cellLines_spec s s.shift.msb
  rw [State.bitCell, h]
@[simp] theorem State.bitCell_addrHold (s : State) : s.bitCell.addrHold = s.addrHold := by
  obtain ⟨_, _, _, _, _, _, h⟩ := State.cellLines_spec s s.shift.msb
  rw [State.bitCell, h]
@[simp] theorem State.bitCell_dataHold (s : State) : s.bitCell.dataHold = s.dataHold := by
  obtain ⟨_, _, _, _, _, _, h⟩ := State.cellLines_spec s s.shift.msb
  rw [State.bitCell, h]
@[simp] theorem State.bitCell_cfgDone (s : State) : s.bitCell.cfgDone = s.cfgDone := by
  obtain ⟨_, _, _, _, _, _, h⟩ := State.cellLines_spec s s.shift.msb
  rw [State.bitCell, h]
@[simp] theorem State.bitCell_cfg (s : State) : s.bitCell.cfg = s.cfg := by
  obtain ⟨_, _, _, _, _, _, h⟩ := State.cellLines_spec s s.shift.msb
  rw [State.bitCell, h]
@[simp] theorem State.bitCell_strobe (s : State) : s.bitCell.strobe = s.strobe := by
  obtain ⟨_, _, _, _, _, _, h⟩ := State.cellLines_spec s s.shift.msb
  rw [State.bitCell, h]
@[simp] theorem State.bitCell_clk (s : State) : s.bitCell.clk = s.clk := by
  obtain ⟨_, _, _, _, _, _, h⟩ := State.cellLines_spec s s.shift.msb
  rw [State.bitCell, h]
@[simp] theorem State.bitCell_clockStable (s : State) : s.bitCell.clockStable = s.clockStable := by
  obtain ⟨_, _, _, _, _, _, h⟩ := State.cellLines_spec s s.shift.msb
  rw [State.bitCell, h]
@[simp] theorem State.bitCell_moves (s : State) : s.bitCell.moves = s.moves := by
  obtain ⟨_, _, _, _, _, _, h⟩ := State.cellLines_spec s s.shift.msb
  rw [State.bitCell, h]
@[simp] theorem State.bitCell_sclk (s : State) : s.bitCell.sclk = s.params.cpol := by
  obtain ⟨_, _, _, _, _, _, h⟩ := State.cellLines_spec s s.shift.msb
  rw [State.bitCell, h]
@[simp] theorem State.bitCell_busy (s : State) : s.bitCell.busy = busyAfterCell (s.bitcnt - 1) s.busy := rfl
@[simp] theorem State.bitCell_shift (s : State) : s.bitCell.shift = s.shift <<< 1 := rfl
@[simp] theorem State.bitCell_bitcnt (s : State) : s.bitCell.bitcnt = s.bitcnt - 1 := rfl

/-! A reset of the block. -/
@[simp] theorem State.blockReset_params (s : State) : s.blockReset.params = s.params := rfl
@[simp] theorem State.blockReset_op (s : State) : s.blockReset.op = .none := rfl
@[simp] theorem State.blockReset_upc (s : State) : s.blockReset.upc = 0 := rfl
@[simp] theorem State.blockReset_txs (s : State) : s.blockReset.txs = false := rfl
@[simp] theorem State.blockReset_cfgDone (s : State) : s.blockReset.cfgDone = false := rfl
@[simp] theorem State.blockReset_busy (s : State) : s.blockReset.busy = false := rfl
@[simp] theorem State.blockReset_bitcnt (s : State) : s.blockReset.bitcnt = 0 := rfl
@[simp] theorem State.blockReset_strobe (s : State) : s.blockReset.strobe = s.params.strobeReset := rfl
@[simp] theorem State.blockReset_trace (s : State) : s.blockReset.trace = [] := rfl
@[simp] theorem State.blockReset_rcv (s : State) : s.blockReset.rcv = s.rcv.seeStrobe s.params.strobeReset := rfl
@[simp] theorem State.blockReset_clk (s : State) : s.blockReset.clk = s.clk := rfl
@[simp] theorem State.blockReset_clockStable (s : State) : s.blockReset.clockStable = true := rfl
@[simp] theorem State.blockReset_moves (s : State) : s.blockReset.moves = s.moves := rfl

end Sys2Proof.Machine
end

