-- ==== Sys2Proof/Laws/Sequencer.lean ====
section
/-! SUPPORT. What the atomic steps do: one lemma per step and one inversion lemma over all of them, and the closed
forms of a whole byte, a whole micro-operation list and a whole operation. -/

namespace Sys2Proof.Machine

/-- A bit cell of defined shape, all at once (40_transport.md R90): one data bit out, most significant first, and
sampled. -/
theorem State.bitCell_eq {s : State} (hs : s.clockStable = true) :
    s.bitCell =
      { s with mosi := s.shift.msb, sclk := s.params.cpol,
               trace := s.trace ++ bitTrace s.params.cpol s.shift.msb,
               rcv := { s.rcv with rshift := s.rcv.rshift.shiftConcat s.shift.msb, nbits := s.rcv.nbits + 1,
                                   prevSclk := s.params.cpol },
               shift := s.shift <<< 1, bitcnt := s.bitcnt - 1, busy := busyAfterCell (s.bitcnt - 1) s.busy } := by
  simp [State.bitCell, State.cellLines, hs, State.driveMosi, State.driveSclk, State.emit, Receiver.see,
    Receiver.seeClock, bitTrace]

/-- A bit cell of whatever shape: `SHIFT`, `BITCNT` and `BUSY` as R90 says, and no strobe event (log entry 24). -/
theorem State.bitCell_spec (s : State) :
    ∃ m es f n k, (∀ v, Event.strobe v ∉ es) ∧
      s.bitCell =
        { s with mosi := m, sclk := s.params.cpol, trace := s.trace ++ es,
                 rcv := { s.rcv with rshift := f, nbits := n, prevSclk := s.params.cpol }, free := k,
                 shift := s.shift <<< 1, bitcnt := s.bitcnt - 1, busy := busyAfterCell (s.bitcnt - 1) s.busy } := by
  obtain ⟨m, es, f, n, k, he, h⟩ := State.cellLines_spec s s.shift.msb
  exact ⟨m, es, f, n, k, he, by rw [State.bitCell, h]⟩

/-- Neither the wave of a bit cell nor anything else in it depends on the sequencer's registers. -/
theorem State.bitCell_rest (s : State) (o : Op) (u : BitVec 6) (x : Bool) (r : Nibble) (d : Byte) :
    ({ s with op := o, upc := u, txs := x, addrHold := r, dataHold := d } : State).bitCell =
      { s.bitCell with op := o, upc := u, txs := x, addrHold := r, dataHold := d } := by
  have hfold (ws : List (Level × Level)) (s : State) :
      ws.foldl State.driveLines { s with op := o, upc := u, txs := x, addrHold := r, dataHold := d } =
        { ws.foldl State.driveLines s with op := o, upc := u, txs := x, addrHold := r, dataHold := d } := by
    induction ws generalizing s with
    | nil => rfl
    | cons w ws ih => exact ih (s.driveLines w)
  have hlines (b : Level) :
      ({ s with op := o, upc := u, txs := x, addrHold := r, dataHold := d } : State).cellLines b =
        { s.cellLines b with op := o, upc := u, txs := x, addrHold := r, dataHold := d } := by
    unfold State.cellLines
    by_cases hs : s.clockStable = true
    · rw [if_pos hs, if_pos hs]
      rfl
    · rw [if_neg hs, if_neg hs]
      exact congrArg (fun t : State => { t.driveSclk s.params.cpol with free := s.free + 1 })
        (hfold (Config.freeWave s.free) s)
  have h := hlines s.shift.msb
  unfold State.bitCell
  exact congrArg (fun t : State =>
    { t with shift := s.shift <<< 1, bitcnt := s.bitcnt - 1, busy := busyAfterCell (s.bitcnt - 1) s.busy }) h

/-- What a bit cell does outside the receiver does not depend on the receiver (20_memory.md R52). -/
theorem State.bitCell_rcv (s : State) (r q : Receiver) :
    ({ ({ s with rcv := r } : State).bitCell with rcv := q } : State) = { s.bitCell with rcv := q } := by
  have hfold (ws : List (Level × Level)) (s t : State) (h : ({ s with rcv := q } : State) = { t with rcv := q }) :
      ({ ws.foldl State.driveLines s with rcv := q } : State) = { ws.foldl State.driveLines t with rcv := q } := by
    induction ws generalizing s t with
    | nil => exact h
    | cons w ws ih => exact ih _ _ (congrArg (fun t : State => { t.driveLines w with rcv := q }) h)
  have hlines (b : Level) :
      ({ ({ s with rcv := r } : State).cellLines b with rcv := q } : State) = { s.cellLines b with rcv := q } := by
    unfold State.cellLines
    by_cases hs : s.clockStable = true
    · rw [if_pos hs, if_pos hs]
      rfl
    · rw [if_neg hs, if_neg hs]
      exact congrArg (fun t : State => { t.driveSclk s.params.cpol with rcv := q, free := s.free + 1 })
        (hfold (Config.freeWave s.free) { s with rcv := r } s rfl)
  have h := hlines s.shift.msb
  unfold State.bitCell
  exact congrArg (fun t : State =>
    { t with shift := s.shift <<< 1, bitcnt := s.bitcnt - 1, busy := busyAfterCell (s.bitcnt - 1) s.busy }) h

/-- Every atomic step of the block is one of these (10_state.md R22, 40_transport.md R90). -/
theorem State.blockStep_cases {s t : State} (h : s.blockStep = some t) :
    (s.busy = true ∧ s.clk = true ∧ t = s.bitCell) ∨
    (s.currentMicro = some .cfg ∧ t = s.configure.advance) ∨
    (∃ v, s.currentMicro = some (.stb v) ∧ t = (s.driveStrobe v).advance) ∨
    (∃ v, s.currentMicro = some (.tx v) ∧ s.busy = false ∧ s.txs = true ∧ t = s.txEnd.advance) ∨
    (∃ v, s.currentMicro = some (.tx v) ∧ s.busy = false ∧ s.txs = false ∧ t = s.txStart v) := by
  unfold State.blockStep State.transmitterStep at h
  by_cases hb : (s.busy && s.clk) = true
  · simp only [hb, if_true, Option.some.injEq] at h
    simp only [Bool.and_eq_true] at hb
    exact .inl ⟨hb.1, hb.2, h.symm⟩
  · simp only [hb, if_false, Bool.false_eq_true] at h
    right
    unfold State.sequencerStep at h
    split at h
    · cases h
    · next hm => exact .inl ⟨hm, (Option.some.inj h).symm⟩
    · next v hm => exact .inr (.inl ⟨v, hm, (Option.some.inj h).symm⟩)
    · next v hm =>
      split at h
      · cases h
      · next hbusy =>
        have hbusy : s.busy = false := by simpa using hbusy
        split at h
        · next ht => exact .inr (.inr (.inl ⟨v, hm, hbusy, ht, (Option.some.inj h).symm⟩))
        · next ht => exact .inr (.inr (.inr ⟨v, hm, hbusy, by simpa using ht, (Option.some.inj h).symm⟩))

/-- No atomic step of the block writes the parameters, the clock or what host and platform do next, and none but a first
`CFG` with the clock standing still writes the duty on the clock. -/
theorem State.blockStep_keeps {s t : State} (h : s.blockStep = some t) :
    t.params = s.params ∧ t.clk = s.clk ∧ (s.clk = true ∨ s.cfgDone = true → t.clockStable = s.clockStable) ∧
      t.moves = s.moves := by
  rcases State.blockStep_cases h with ⟨_, _, rfl⟩ | ⟨_, rfl⟩ | ⟨v, _, rfl⟩ | ⟨v, _, _, _, rfl⟩ | ⟨v, _, _, _, rfl⟩ <;>
    simp +contextual

/-- With nobody coming in, the quiet step is the block's step. -/
theorem State.quietStep_of_undisturbed {s : State} (h : s.undisturbed = true) : s.quietStep = s.blockStep := by
  unfold State.undisturbed at h
  unfold State.quietStep
  split
  · next hm => rw [hm] at h; cases h
  · next hm => rw [hm] at h; cases h
  · rfl

/-- A quiet step is a step of the block, up to the countdown in `moves`. -/
theorem State.quietStep_cases {s u : State} (h : s.quietStep = some u) :
    ∃ t ms, s.blockStep = some t ∧ u = { t with moves := ms } := by
  unfold State.quietStep at h
  split at h
  · cases h
  · obtain ⟨t, ht, rfl⟩ := Option.map_eq_some_iff.1 h
    exact ⟨t, _, ht, rfl⟩
  · exact ⟨u, u.moves, h, rfl⟩

theorem State.run_succ {s t : State} (h : s.quietStep = some t) (k : Nat) : s.run (k + 1) = t.run k := by
  simp [State.run, h]

/-- A run may be cut in two. -/
theorem State.run_add (j k : Nat) (s : State) : s.run (j + k) = (s.run j).run k := by
  induction j generalizing s with
  | zero => simp [State.run]
  | succ j ih =>
    rw [Nat.succ_add]
    cases h : s.quietStep with
    | none => simp only [State.run, h]; cases k <;> simp [State.run, h]
    | some t => rw [State.run_succ h, State.run_succ h, ih]

/-- A run that can take no step stays. -/
theorem State.run_of_none {s : State} (h : s.quietStep = none) (k : Nat) : s.run k = s := by
  cases k <;> simp [State.run, h]

/-- What every quiet step keeps, every run keeps. -/
theorem State.run_induct {P : State → Prop} (hstep : ∀ s t, P s → s.quietStep = some t → P t) :
    ∀ (k : Nat) (s : State), P s → P (s.run k)
  | 0, _, h => h
  | k + 1, s, h => by
    unfold State.run
    split
    · exact h
    · next t ht => exact State.run_induct hstep k t (hstep s t h ht)

/-- Eight bits shifted in one after another are the byte appended (43_register_frames.md R118). -/
theorem shiftConcat_byte (r : Frame) (v : Byte) :
    ((((((((r.shiftConcat (v.getLsbD 7)).shiftConcat (v.getLsbD 6)).shiftConcat (v.getLsbD 5)).shiftConcat
      (v.getLsbD 4)).shiftConcat (v.getLsbD 3)).shiftConcat (v.getLsbD 2)).shiftConcat (v.getLsbD 1)).shiftConcat
      (v.getLsbD 0)) = r.extractLsb' 0 8 ++ v := by
  apply BitVec.eq_of_getLsbD_eq
  intro i hi
  rw [show ((r.extractLsb' 0 8 ++ v : BitVec 16)).getLsbD i = _ from BitVec.getLsbD_append]
  rcases i with _|_|_|_|_|_|_|_|_|_|_|_|_|_|_|_|i <;>
    first | omega | simp

/-- Eight bit cells of defined shape send the byte (40_transport.md R91). -/
theorem State.cells_eight {s : State} {v : Byte} (hs : s.shift = v) (hc : s.bitcnt = 8) (hb : s.busy = true)
    (hk : s.clockStable = true) : s.afterCells 8 = s.sent v := by
  subst hs
  have msbs : ∀ v : Byte, v.msb = v.getLsbD 7 ∧ (v <<< 1).msb = v.getLsbD 6 ∧ (v <<< 1 <<< 1).msb = v.getLsbD 5 ∧
     (v <<< 1 <<< 1 <<< 1).msb = v.getLsbD 4 ∧ (v <<< 1 <<< 1 <<< 1 <<< 1).msb = v.getLsbD 3 ∧
     (v <<< 1 <<< 1 <<< 1 <<< 1 <<< 1).msb = v.getLsbD 2 ∧ (v <<< 1 <<< 1 <<< 1 <<< 1 <<< 1 <<< 1).msb = v.getLsbD 1 ∧
     (v <<< 1 <<< 1 <<< 1 <<< 1 <<< 1 <<< 1 <<< 1).msb = v.getLsbD 0 ∧
     v <<< 1 <<< 1 <<< 1 <<< 1 <<< 1 <<< 1 <<< 1 <<< 1 = 0 := by decide
  obtain ⟨h7, h6, h5, h4, h3, h2, h1, h0, hz⟩ := msbs s.shift
  simp only [State.afterCells, State.bitCell_eq, hk, hc, hb, h7, h6, h5, h4, h3, h2, h1, h0, hz, State.sent,
    Receiver.shiftedIn, shiftConcat_byte, byteTrace,
    List.append_assoc, List.flatMap_cons, List.flatMap_nil, List.append_nil, Nat.add_assoc, Nat.reduceAdd]
  rfl

/-- What bit cells leave alone, whatever their shape. -/
theorem State.afterCells_keeps (s : State) (k : Nat) :
    (s.afterCells k).op = s.op ∧ (s.afterCells k).upc = s.upc ∧ (s.afterCells k).txs = s.txs ∧
      (s.afterCells k).addrHold = s.addrHold ∧ (s.afterCells k).dataHold = s.dataHold ∧
      (s.afterCells k).params = s.params ∧ (s.afterCells k).clk = s.clk ∧
      (s.afterCells k).clockStable = s.clockStable ∧ (s.afterCells k).moves = s.moves ∧
      (s.afterCells k).strobe = s.strobe := by
  induction k with
  | zero => exact ⟨rfl, rfl, rfl, rfl, rfl, rfl, rfl, rfl, rfl, rfl⟩
  | succ k ih => simpa only [State.afterCells, State.bitCell_op, State.bitCell_upc, State.bitCell_txs,
      State.bitCell_addrHold, State.bitCell_dataHold, State.bitCell_params, State.bitCell_clk, State.bitCell_clockStable,
      State.bitCell_moves, State.bitCell_strobe] using ih

theorem State.afterCells_rest (s : State) (o : Op) (u : BitVec 6) (x : Bool) (r : Nibble) (d : Byte) (k : Nat) :
    ({ s with op := o, upc := u, txs := x, addrHold := r, dataHold := d } : State).afterCells k =
      { s.afterCells k with op := o, upc := u, txs := x, addrHold := r, dataHold := d } := by
  induction k with
  | zero => rfl
  | succ k ih => rw [State.afterCells, ih, State.bitCell_rest, State.afterCells]

/-- After `k` bit cells `8 - k` are left (40_transport.md R90). -/
theorem State.afterCells_count (s : State) (v : Byte) {k : Nat} (hk : k ≤ 8) :
    ((s.txStart v).afterCells k).bitcnt.toNat = 8 - k ∧
      ((s.txStart v).afterCells k).busy = !decide (k = 8) := by
  induction k with
  | zero => exact ⟨rfl, rfl⟩
  | succ k ih =>
    obtain ⟨hc, hb⟩ := ih (Nat.le_of_succ_le hk)
    have hc' : (((s.txStart v).afterCells k).bitcnt - 1).toNat = 8 - (k + 1) := by bv_omega
    refine ⟨hc', ?_⟩
    rw [State.afterCells, State.bitCell_busy, busyAfterCell, hb]
    by_cases h : k + 1 = 8
    · rw [if_pos (BitVec.eq_of_toNat_eq (hc'.trans (by rw [h]; rfl)))]
      simp [h]
    · rw [if_neg (fun h' => by rw [h'] at hc'; change 0 = _ at hc'; omega)]
      simp [h, show k ≠ 8 by omega]

/-- A byte in flight, its clock running and nobody coming in: the next step is a bit cell. -/
theorem State.quietStep_cell {s : State} (hu : s.undisturbed = true) (hc : s.clk = true) (hb : s.busy = true) :
    s.quietStep = some s.bitCell := by
  rw [State.quietStep_of_undisturbed hu]
  simp [State.blockStep, State.transmitterStep, hb, hc]

/-- `undisturbed` reads only `moves`. -/
theorem State.undisturbed_congr {s t : State} (h : t.moves = s.moves) : t.undisturbed = s.undisturbed := by
  simp only [State.undisturbed, h]

/-- With no byte in flight the next step is the sequencer's. -/
theorem State.quietStep_sequencer {s : State} (hu : s.undisturbed = true) (hb : s.busy = false) :
    s.quietStep = s.sequencerStep := by
  rw [State.quietStep_of_undisturbed hu]
  simp [State.blockStep, State.transmitterStep, hb]

/-- What a micro-operation does, the sequencing aside. -/
def State.did (s : State) : MicroOp → State
  | .cfg => s.configure
  | .tx v => { (s.txStart v).afterCells 8 with txs := s.txs }
  | .stb v => s.driveStrobe v

theorem State.did_stb (s : State) (v : Level) : s.did (.stb v) = s.driveStrobe v := rfl

/-- With bit cells of defined shape `TX(v)` sends the byte. -/
theorem State.did_tx {s : State} (hk : s.clockStable = true) (v : Byte) : s.did (.tx v) = s.sent v := by
  rw [State.did, State.cells_eight (s := s.txStart v) rfl rfl rfl hk]
  rfl

/-- The atomic steps of a micro-operation. -/
def MicroOp.cost : MicroOp → Nat
  | .cfg => 1
  | .tx _ => 10
  | .stb _ => 1

/-- Its steps carry a micro-operation out and advance (10_state.md R22, 40_transport.md R88 to R91). -/
theorem State.run_micro {s : State} {m : MicroOp} (hm : s.currentMicro = some m) (hu : s.undisturbed = true)
    (hc : s.clk = true) (ht : s.txs = false) (hb : s.busy = false) (k : Nat) :
    s.run (k + m.cost) = (s.did m).advance.run k := by
  cases m with
  | cfg => exact State.run_succ (by rw [State.quietStep_sequencer hu hb, State.sequencerStep, hm]; rfl) k
  | stb v => exact State.run_succ (by rw [State.quietStep_sequencer hu hb, State.sequencerStep, hm]; rfl) k
  | tx v =>
    have hstart : s.quietStep = some (s.txStart v) := by
      rw [State.quietStep_sequencer hu hb, State.sequencerStep, hm]
      simp [hb, ht]
    have hkeep (k : Nat) := State.afterCells_keeps (s.txStart v) k
    have cell (k : Nat) (hk : k < 8) (j : Nat) :
        ((s.txStart v).afterCells k).run (j + 1) = ((s.txStart v).afterCells (k + 1)).run j :=
      State.run_succ (State.quietStep_cell
        ((State.undisturbed_congr (hkeep k).2.2.2.2.2.2.2.2.1).trans hu) ((hkeep k).2.2.2.2.2.2.1.trans hc)
        ((State.afterCells_count s v (Nat.le_of_lt hk)).2.trans (by simp [Nat.ne_of_lt hk]))) j
    have hend : ((s.txStart v).afterCells 8).quietStep = some ((s.txStart v).afterCells 8).txEnd.advance := by
      have hb8 : ((s.txStart v).afterCells 8).busy = false := (State.afterCells_count s v (Nat.le_refl 8)).2
      have ht8 : ((s.txStart v).afterCells 8).txs = true := (hkeep 8).2.2.1
      have hm8 : ((s.txStart v).afterCells 8).currentMicro = some (.tx v) := by
        rw [← hm]
        simp only [State.currentMicro, State.microList, hkeep 8]
        rfl
      rw [State.quietStep_sequencer ((State.undisturbed_congr (hkeep 8).2.2.2.2.2.2.2.2.1).trans hu) hb8,
        State.sequencerStep, hm8]
      simp [hb8, ht8]
    show s.run (k + 9 + 1) = _
    rw [State.run_succ hstart, show k + 9 = k + 8 + 1 from rfl]
    show ((s.txStart v).afterCells 0).run _ = _
    rw [cell 0 (by decide), cell 1 (by decide), cell 2 (by decide), cell 3 (by decide), cell 4 (by decide),
      cell 5 (by decide), cell 6 (by decide), cell 7 (by decide), State.run_succ hend]
    simp only [State.did, ht]
    rfl

/-- Micro-operations do not read or write the sequencer's registers. -/
theorem State.did_rest (s : State) (m : MicroOp) (o : Op) (u : BitVec 6) (x : Bool) (r : Nibble) (d : Byte) :
    ({ s with op := o, upc := u, txs := x, addrHold := r, dataHold := d } : State).did m =
      { s.did m with op := o, upc := u, txs := x, addrHold := r, dataHold := d } := by
  cases m with
  | cfg => rfl
  | stb v => rfl
  | tx v =>
    have h := State.afterCells_rest (s.txStart v) o u true r d 8
    exact congrArg (fun t : State => { t with txs := x }) h

theorem State.foldl_did_finished (ms : List MicroOp) (s : State) (o : Op) (u : BitVec 6) (x : Bool) (r : Nibble)
    (d : Byte) :
    (ms.foldl State.did { s with op := o, upc := u, txs := x, addrHold := r, dataHold := d }).finished =
      (ms.foldl State.did s).finished := by
  induction ms generalizing s with
  | nil => rfl
  | cons m ms ih => rw [List.foldl_cons, State.did_rest, ih, List.foldl_cons]

/-- What a micro-operation keeps. -/
theorem State.did_keeps (s : State) (m : MicroOp) :
    (s.did m).op = s.op ∧ (s.did m).upc = s.upc ∧ (s.did m).txs = s.txs ∧ (s.did m).addrHold = s.addrHold ∧
      (s.did m).dataHold = s.dataHold ∧ (s.did m).params = s.params ∧ (s.did m).clk = s.clk ∧
      (s.did m).moves = s.moves ∧
      (s.clk = true ∨ s.cfgDone = true → (s.did m).clockStable = s.clockStable) ∧
      (s.busy = false → (s.did m).busy = false) := by
  cases m with
  | cfg => simp +contextual [State.did]
  | stb v => simp [State.did]
  | tx v =>
    have hk := State.afterCells_keeps (s.txStart v) 8
    exact ⟨hk.1, hk.2.1, rfl, hk.2.2.2.1, hk.2.2.2.2.1, hk.2.2.2.2.2.1, hk.2.2.2.2.2.2.1, hk.2.2.2.2.2.2.2.2.1,
      fun _ => hk.2.2.2.2.2.2.2.1, fun _ => (State.afterCells_count s v (Nat.le_refl 8)).2⟩

/-- A block at rest takes no step. -/
theorem State.quietStep_rest {s : State} (ho : s.op = .none) (hb : s.busy = false) : s.quietStep = none := by
  have : s.blockStep = none := by
    simp [State.blockStep, State.transmitterStep, hb, State.sequencerStep, State.currentMicro, State.microList, ho, micro]
  unfold State.quietStep
  split <;> simp [this]

/-- The whole rest of a micro-operation list, from `UPC` on. -/
theorem State.run_list (ms : List MicroOp) : ∀ (s : State), ms ≠ [] → s.microList.drop s.upc.toNat = ms →
    s.microList.length < 64 → s.undisturbed = true → s.clk = true → s.txs = false → s.busy = false → ∀ k : Nat,
    s.run (k + (ms.map MicroOp.cost).sum) = (ms.foldl State.did s).finished := by
  induction ms with
  | nil => intro s h; exact absurd rfl h
  | cons m ms ih =>
    intro s _ hd hlen hu hc ht hb k
    have hlt : s.upc.toNat < s.microList.length := by
      by_contra h
      rw [List.drop_eq_nil_of_le (Nat.le_of_not_lt h)] at hd
      cases hd
    have hdrop := List.drop_eq_getElem_cons hlt
    have hm : s.currentMicro = some m := by
      rw [State.currentMicro, List.getElem?_eq_getElem hlt]
      rw [hdrop] at hd
      exact congrArg some (List.cons.inj hd).1
    have htail : s.microList.drop (s.upc.toNat + 1) = ms := by
      rw [hdrop] at hd
      exact (List.cons.inj hd).2
    have hk := State.did_keeps s m
    have hml : (s.did m).microList = s.microList := by
      simp only [State.microList, hk.1, hk.2.2.2.1, hk.2.2.2.2.1, hk.2.2.2.2.2.1]
    rw [List.map_cons, List.sum_cons, Nat.add_comm m.cost, ← Nat.add_assoc, State.run_micro hm hu hc ht hb]
    cases ms with
    | nil =>
      have hlast : (s.did m).atLast = true := by
        have := List.drop_eq_nil_iff.1 htail
        simp only [State.atLast, hml, hk.2.1, beq_iff_eq]
        omega
      have hf : (s.did m).advance = (s.did m).finished := by
        simp only [State.advance, State.finished, hlast, if_true, hk.2.2.1.trans ht]
      rw [hf, List.foldl_cons, List.foldl_nil]
      exact State.run_of_none (State.quietStep_rest (s := (s.did m).finished) rfl (hk.2.2.2.2.2.2.2.2.2 hb)) _
    | cons m' ms' =>
      have hlt' : s.upc.toNat + 1 < s.microList.length := by
        by_contra h
        rw [List.drop_eq_nil_of_le (Nat.le_of_not_lt h)] at htail
        cases htail
      have hnot : (s.did m).atLast = false := by
        simp only [State.atLast, hml, hk.2.1, beq_eq_false_iff_ne]
        omega
      have ha : (s.did m).advance = { s.did m with upc := s.upc + 1 } := by
        simp [State.advance, hnot, hk.2.1]
      have hupc : (s.upc + 1).toNat = s.upc.toNat + 1 := by
        rw [BitVec.toNat_add]
        exact Nat.mod_eq_of_lt (by simpa using Nat.lt_trans hlt' hlen)
      rw [ha, ih { s.did m with upc := s.upc + 1 } (by simp)
        (by show (s.did m).microList.drop (s.upc + 1).toNat = _; rw [hml, hupc]; exact htail)
        (by show (s.did m).microList.length < 64; rw [hml]; exact hlen)
        ((State.undisturbed_congr hk.2.2.2.2.2.2.2.1).trans hu) (hk.2.2.2.2.2.2.1.trans hc)
        (hk.2.2.1.trans ht) (hk.2.2.2.2.2.2.2.2.2 hb)]
      exact State.foldl_did_finished _ _ (s.did m).op (s.upc + 1) (s.did m).txs (s.did m).addrHold (s.did m).dataHold

/-- One register write is one closed form (41_framer.md R99, R100). -/
theorem State.foldl_did_wr {s : State} (hk : s.clockStable = true) (r : Nibble) (d : Byte) :
    (wr s.params r d).foldl State.did s = s.written r d := by
  cases h : s.params.variant
  · simp only [wr, h, List.foldl_cons, List.foldl_nil]
    rw [State.did_tx (s := s.did (.stb false)) hk, State.did_tx (s := (s.did (.stb false)).sent (addressByte r)) hk]
    simp [h, State.did, State.written, wrTrace, Receiver.afterWrite, State.driveStrobe, State.emit, State.sent,
      Receiver.see, Variant.idleLevel]
  · simp only [wr, h, List.foldl_cons, List.foldl_nil]
    rw [State.did_tx hk, State.did_tx (s := s.sent (addressByte r)) hk]
    simp [h, State.did, State.written, wrTrace, Receiver.afterWrite, State.driveStrobe, State.emit, State.sent,
      Receiver.see, Variant.idleLevel]

/-- A register write leaves the strobe line at the idle level and no byte in flight, whatever the shape of its cells. -/
theorem State.foldl_did_wr_idle (s : State) (r : Nibble) (d : Byte) :
    ((wr s.params r d).foldl State.did s).strobe = s.params.variant.idleLevel ∧
      ((wr s.params r d).foldl State.did s).busy = false ∧ ((wr s.params r d).foldl State.did s).params = s.params := by
  have tx (t : State) (v : Byte) := State.did_keeps t (.tx v)
  have busy (t : State) (v : Byte) : (t.did (.tx v)).busy = false := (State.afterCells_count t v (Nat.le_refl 8)).2
  cases h : s.params.variant <;> simp [wr, h, State.did_stb, busy, tx, Variant.idleLevel]

/-- The micro-operation lists of a list of register writes. -/
theorem State.foldl_did_writes (ws : List (Nibble × Byte)) {s : State} (hk : s.clockStable = true) :
    (ws.flatMap fun x => wr s.params x.1 x.2).foldl State.did s = ws.foldl (fun t x => t.written x.1 x.2) s := by
  induction ws generalizing s with
  | nil => rfl
  | cons x ws ih =>
    rw [List.flatMap_cons, List.foldl_append, State.foldl_did_wr hk, List.foldl_cons]
    exact ih (s := s.written x.1 x.2) hk

/-- So does a list of them. -/
theorem State.foldl_did_writes_idle (ws : List (Nibble × Byte)) (x : Nibble × Byte) (s : State) :
    (((ws ++ [x]).flatMap fun x => wr s.params x.1 x.2).foldl State.did s).strobe = s.params.variant.idleLevel := by
  induction ws generalizing s with
  | nil => simpa using (State.foldl_did_wr_idle s x.1 x.2).1
  | cons y ws ih =>
    have h := (State.foldl_did_wr_idle s y.1 y.2).2.2
    rw [List.cons_append, List.flatMap_cons, List.foldl_append]
    have hi := ih ((wr s.params y.1 y.2).foldl State.did s)
    rwa [h] at hi

/-- A list of register writes in closed form. -/
theorem State.foldl_written (ws : List (Nibble × Byte)) (x : Nibble × Byte) (s : State) :
    (ws ++ [x]).foldl (fun t x => t.written x.1 x.2) s =
      { s with trace := s.trace ++ writesTrace s.params (ws ++ [x]), mosi := x.2.getLsbD 0, sclk := s.params.cpol,
               strobe := s.params.variant.idleLevel, shift := 0, bitcnt := 0, busy := false,
               rcv := s.rcv.afterWrites s.params (ws ++ [x]) } := by
  induction ws generalizing s with
  | nil => simp [State.written, writesTrace, Receiver.afterWrites]
  | cons y ws ih =>
    rw [List.cons_append, List.foldl_cons, ih]
    simp [State.written, writesTrace, Receiver.afterWrites]

/-- The length and the cost of a list of register writes. -/
theorem wr_size (p : Params) (r : Nibble) (d : Byte) :
    (wr p r d).length = 4 ∧ ((wr p r d).map MicroOp.cost).sum = 22 := by
  cases h : p.variant <;> simp [wr, h, MicroOp.cost]

theorem writes_size (p : Params) (ws : List (Nibble × Byte)) :
    (ws.flatMap fun x => wr p x.1 x.2).length = 4 * ws.length ∧
      ((ws.flatMap fun x => wr p x.1 x.2).map MicroOp.cost).sum = 22 * ws.length := by
  induction ws with
  | nil => exact ⟨rfl, rfl⟩
  | cons x ws ih =>
    have := wr_size p x.1 x.2
    simp only [List.flatMap_cons, List.length_append, List.map_append, List.sum_append, List.length_cons, ih, this]
    omega

/-- An admitted operation, from idle, with the clock running and nobody coming in, is carried out whole. -/
theorem State.issue_completes {s : State} {o : Op} {r : Nibble} {d : Byte} (hi : s.idle) (ha : s.admits o = true)
    (hc : s.clk = true) (hu : s.undisturbed = true) (hne : micro s.params o r d ≠ [])
    (hlen : (micro s.params o r d).length < 64) (hcost : ((micro s.params o r d).map MicroOp.cost).sum ≤ opFuel) :
    s.issue o r d = .next ((micro s.params o r d).foldl State.did s).finished := by
  have hr : s.ready = true := by simp [State.ready, hi.1]
  simp only [State.issue, hr, ha, if_true]
  obtain ⟨k, hk⟩ := Nat.exists_eq_add_of_le hcost
  rw [hk, Nat.add_comm]
  rw [State.run_list (micro s.params o r d) (s.accept o r d) hne rfl hlen hu hc rfl hi.2 k]
  exact congrArg _ (State.foldl_did_finished _ s o 0 false r d)

/-- What an operation at the port can lead to: not accepted, refused, or accepted and run (R155, R156, R22). -/
theorem State.issue_cases (s : State) (o : Op) (r : Nibble) (d : Byte) :
    (s.op ≠ .none ∧ s.issue o r d = .next s) ∨
    (s.op = .none ∧ s.admits o = false ∧ s.issue o r d = .refused .operationBeforeInitTransport) ∨
    (s.op = .none ∧ s.admits o = true ∧ s.issue o r d = .next ((s.accept o r d).run opFuel)) := by
  by_cases h : s.op = .none
  · have hr : s.ready = true := by simp [State.ready, h]
    cases ha : s.admits o
    · exact .inr (.inl ⟨h, rfl, by simp [State.issue, hr, ha]⟩)
    · exact .inr (.inr ⟨h, rfl, by simp [State.issue, hr, ha]⟩)
  · exact .inl ⟨h, by simp [State.issue, State.ready, h]⟩

/-- The `CFG` micro-operation needs no clock: once accepted, `INIT_TRANSPORT` is carried out from idle. -/
theorem State.issue_initT {s : State} {r : Nibble} {d : Byte} (hi : s.idle) (hu : s.undisturbed = true) :
    s.issue .initT r d = .next s.configure.finished := by
  have hr : s.ready = true := by simp [State.ready, hi.1]
  have ha : s.admits .initT = true := by simp [State.admits]
  simp only [State.issue, hr, ha, if_true]
  have hstep : (s.accept .initT r d).quietStep = some (s.accept .initT r d).configure.advance := by
    rw [State.quietStep_sequencer (s := s.accept .initT r d) hu hi.2]
    rfl
  have hf : (s.accept .initT r d).configure.advance = s.configure.finished := rfl
  rw [show opFuel = 285 + 1 from rfl, State.run_succ hstep, hf]
  exact congrArg _ (State.run_of_none (State.quietStep_rest (s := s.configure.finished) rfl hi.2) _)

end Sys2Proof.Machine
end

