-- ==== Sys2Proof/Laws/Step.lean ====
section
/-! SUPPORT. What a step of the machine can do: the operation it accepts, what the operation leads to, and one induction
for every property that atomic steps, acceptance and the events of host and platform keep. -/

namespace Sys2Proof.Machine

/-- Only an idle block accepts, and acceptance takes the request off the port (10_state.md R22, R23). -/
theorem State.fetch_cases {s u : State} {w : Command} (h : s.fetch = some (w, u)) :
    s.op = .none ∧ ∃ ms, u = { s with moves := ms } := by
  unfold State.fetch at h
  split at h
  · next hr =>
    have ho : s.op = .none := by simpa [State.ready] using hr
    split at h
    · cases h; exact ⟨ho, _, rfl⟩
    · cases h; exact ⟨ho, _, rfl⟩
    · cases h
  · cases h

/-- An operation of the command port is refused, is not accepted, or is accepted and run. -/
theorem exec_command_cases (w : Command) (s : State) :
    (s.op = .none ∧ commandOp w ≠ 0 ∧ s.cfgDone = false ∧
      exec (decodeCommand w) s = .refused .operationBeforeInitTransport) ∨
    (s.op ≠ .none ∧ exec (decodeCommand w) s = .next s) ∨
    (∃ o r d, s.op = .none ∧ o ≠ .none ∧ s.admits o = true ∧
      exec (decodeCommand w) s = .next ((s.accept o r d).run opFuel)) := by
  have main (o : Op) (r : Nibble) (d : Byte) (hne : o ≠ .none) (hw : o = .initT ∨ commandOp w ≠ 0)
      (h : exec (decodeCommand w) s = s.issue o r d) :
      (s.op = .none ∧ commandOp w ≠ 0 ∧ s.cfgDone = false ∧
        exec (decodeCommand w) s = .refused .operationBeforeInitTransport) ∨
      (s.op ≠ .none ∧ exec (decodeCommand w) s = .next s) ∨
      (∃ o r d, s.op = .none ∧ o ≠ .none ∧ s.admits o = true ∧
        exec (decodeCommand w) s = .next ((s.accept o r d).run opFuel)) := by
    rcases State.issue_cases s o r d with ⟨ho, hi⟩ | ⟨ho, ha, hi⟩ | ⟨ho, ha, hi⟩
    · exact .inr (.inl ⟨ho, h.trans hi⟩)
    · simp only [State.admits, Bool.or_eq_false_iff, beq_eq_false_iff_ne] at ha
      exact .inl ⟨ho, hw.resolve_left ha.1, ha.2, h.trans hi⟩
    · exact .inr (.inr ⟨o, r, d, ho, hne, ha, h.trans hi⟩)
  rcases opcode_cases (commandOp w) with h | h | h | h
  · exact main .initT s.addrHold s.dataHold (by simp) (.inl rfl) (by simp only [decodeCommand, h]; rfl)
  · exact main .txb s.addrHold (commandD w) (by simp) (.inr (by simp [h])) (by simp only [decodeCommand, h]; rfl)
  · exact main .wr (maskAddress (commandA w)) (commandD w) (by simp) (.inr (by simp [h]))
      (by simp only [decodeCommand, h]; rfl)
  · exact main .initD s.addrHold (commandD w) (by simp) (.inr (by simp [h])) (by simp only [decodeCommand, h]; rfl)

/-- What atomic steps, acceptance, a change of `moves` and every event keep, a step keeps. -/
theorem step_induct {P : State → Prop} (hblock : ∀ s t, P s → s.blockStep = some t → P t)
    (hmoves : ∀ s ms, P s → P { s with moves := ms })
    (haccept : ∀ s o r d, P s → s.op = .none → s.admits o = true → o ≠ .none → P (s.accept o r d))
    (hevent : ∀ s e, P s → P (s.happen e)) {s t : State} (hs : P s) (h : step s = .next t) : P t := by
  have hquiet (s t : State) (hs : P s) (h : s.quietStep = some t) : P t := by
    obtain ⟨u, ms, hb, rfl⟩ := State.quietStep_cases h
    exact hmoves _ _ (hblock _ _ hs hb)
  unfold step at h
  split at h
  · next w u hf =>
    obtain ⟨_, ms, rfl⟩ := State.fetch_cases hf
    have hP := hmoves s ms hs
    rcases exec_command_cases w { s with moves := ms } with ⟨_, _, _, hx⟩ | ⟨_, hx⟩ |
      ⟨o, r, d, ho, hne, ha, hx⟩ <;> rw [hx] at h <;> cases h
    · exact hP
    · exact State.run_induct hquiet _ _ (haccept _ _ _ _ hP ho ha hne)
  · cases h
    unfold State.proceed
    split
    · next u hu => exact hquiet _ _ hs hu
    · split
      · exact hevent _ _ (hmoves _ _ hs)
      · exact hs

end Sys2Proof.Machine
end

