-- ==== Sys2Proof/Tests/Slice0.lean ====
section
/-! SUPPORT. Tests of single steps against the spec's own vectors (95_test_vectors.md), the decoding of words written out
from the spec's encodings, the smoke tests of WellFormed, and for every obligation with hypotheses a state and operands
that meet them. -/

namespace Sys2Proof.Tests

open Sys2Proof Sys2Proof.Machine

/-! ## Decoding: words of 95_test_vectors.md V1, V2, V5, V9 and V10 -/

/-- V1: 00 and sixteen unused bits. -/
theorem test_decode_initTransport : decodeTableWord 24 0x0FFFF = some (.initTransport 0xFFFF) := by decide

/-- V2: 01 uuuuuuuu 00111100. -/
theorem test_decode_txByte : decodeTableWord 24 0x1003C = some (.txByte 0x00 0x3C) := by decide

/-- V5: 10 00011101 01010101. -/
theorem test_decode_writeReg : decodeTableWord 24 0x21D55 = some (.writeReg 0x1D 0x55) := by decide

/-- V9: 11 uuuuuuuu 00001111. -/
theorem test_decode_initDisplay : decodeTableWord 24 0x3000F = some (.initDisplay 0x00 0x0F) := by decide

/-- V5: 0000 0000 10000000. -/
theorem test_decode_fNoop : decodeTableWord 16 0x0080 = some (.fNoop 0 0x80) := by decide

/-- V5: 0000 0001 10000000. -/
theorem test_decode_fDigit0 : decodeTableWord 16 0x0180 = some (.fDigit0 0 0x80) := by decide

/-- V10: 0000 0010 01111110. -/
theorem test_decode_fDigit1 : decodeTableWord 16 0x027E = some (.fDigit1 0 0x7E) := by decide

/-- V10: 0000 0011 11111111. -/
theorem test_decode_fDigit2 : decodeTableWord 16 0x03FF = some (.fDigit2 0 0xFF) := by decide

/-- V10: 0000 0100 10000001. -/
theorem test_decode_fDigit3 : decodeTableWord 16 0x0481 = some (.fDigit3 0 0x81) := by decide

/-- V10: 0000 0101 00011000. -/
theorem test_decode_fDigit4 : decodeTableWord 16 0x0518 = some (.fDigit4 0 0x18) := by decide

/-- V10: 0000 0110 00100100. -/
theorem test_decode_fDigit5 : decodeTableWord 16 0x0624 = some (.fDigit5 0 0x24) := by decide

/-- V10: 0000 0111 01000010. -/
theorem test_decode_fDigit6 : decodeTableWord 16 0x0742 = some (.fDigit6 0 0x42) := by decide

/-- V5: 0000 1000 00000001. -/
theorem test_decode_fDigit7 : decodeTableWord 16 0x0801 = some (.fDigit7 0 0x01) := by decide

/-- V5: 0000 1001 00000000. -/
theorem test_decode_fDecodeMode : decodeTableWord 16 0x0900 = some (.fDecodeMode 0 0x00) := by decide

/-- V5: 0000 1010 00001111. -/
theorem test_decode_fIntensity : decodeTableWord 16 0x0A0F = some (.fIntensity 0 0x0F) := by decide

/-- V10: 0000 1011 00000011. -/
theorem test_decode_fScanLimit : decodeTableWord 16 0x0B03 = some (.fScanLimit 0 0x03) := by decide

/-- V5: 0000 1100 00000001. -/
theorem test_decode_fShutdown : decodeTableWord 16 0x0C01 = some (.fShutdown 0 0x01) := by decide

/-- V5: 0000 1101 01010101. -/
theorem test_decode_fAddrD : decodeTableWord 16 0x0D55 = some (.fAddrD 0 0x55) := by decide

/-- V5: 0000 1110 00000000. -/
theorem test_decode_fAddrE : decodeTableWord 16 0x0E00 = some (.fAddrE 0 0x00) := by decide

/-- R77, R78: 1111 1111 10101011, the upper nibble ignored. -/
theorem test_decode_fDisplayTest : decodeTableWord 16 0xFFAB = some (.fDisplayTest 0xF 0xAB) := by decide

/-- R81: 16 and 18 bits (24 in whole bytes) are the only widths, and nothing may stand above the word. -/
theorem test_decode_rejects : decodeBits 8 0 = .error .noFormatOfThisWidth ∧
    decodeBits 32 0 = .error .noFormatOfThisWidth ∧ decodeBits 24 0x40000 = .error .bitsAboveTheWord ∧
    decodeBits 16 0x10000 = .error .bitsAboveTheWord := by decide

/-- V5: the encoder on `WRITE_REG 0xFF, 0xAB`, and the frame it assembles. -/
theorem test_encode : encode (.writeReg 0xFF 0xAB) = .command 0x2FFAB ∧ encode (.fDisplayTest 0 0xAB) = .frame 0x0FAB ∧
    frameOf 0xFF 0xAB = 0x0FAB ∧ frameOf 0x80 0x80 = 0x0080 := by decide

/-! ## WellFormed: one ill-formed term for each check (R65, R78), beside well-formed ones -/

theorem test_wellFormed_fNoop : (Instr.fNoop 0 0xFF).wellFormed = true ∧ (Instr.fNoop 1 0).wellFormed = false := by decide

theorem test_wellFormed_fDigit0 : (Instr.fDigit0 0 0xFF).wellFormed = true ∧ (Instr.fDigit0 1 0).wellFormed = false := by decide

theorem test_wellFormed_fDigit1 : (Instr.fDigit1 0 0xFF).wellFormed = true ∧ (Instr.fDigit1 1 0).wellFormed = false := by decide

theorem test_wellFormed_fDigit2 : (Instr.fDigit2 0 0xFF).wellFormed = true ∧ (Instr.fDigit2 1 0).wellFormed = false := by decide

theorem test_wellFormed_fDigit3 : (Instr.fDigit3 0 0xFF).wellFormed = true ∧ (Instr.fDigit3 1 0).wellFormed = false := by decide

theorem test_wellFormed_fDigit4 : (Instr.fDigit4 0 0xFF).wellFormed = true ∧ (Instr.fDigit4 1 0).wellFormed = false := by decide

theorem test_wellFormed_fDigit5 : (Instr.fDigit5 0 0xFF).wellFormed = true ∧ (Instr.fDigit5 1 0).wellFormed = false := by decide

theorem test_wellFormed_fDigit6 : (Instr.fDigit6 0 0xFF).wellFormed = true ∧ (Instr.fDigit6 1 0).wellFormed = false := by decide

theorem test_wellFormed_fDigit7 : (Instr.fDigit7 0 0xFF).wellFormed = true ∧ (Instr.fDigit7 1 0).wellFormed = false := by decide

theorem test_wellFormed_fDecodeMode : (Instr.fDecodeMode 0 0xFF).wellFormed = true ∧ (Instr.fDecodeMode 1 0).wellFormed = false := by decide

theorem test_wellFormed_fIntensity : (Instr.fIntensity 0 0xFF).wellFormed = true ∧ (Instr.fIntensity 1 0).wellFormed = false := by decide

theorem test_wellFormed_fScanLimit : (Instr.fScanLimit 0 0xFF).wellFormed = true ∧ (Instr.fScanLimit 1 0).wellFormed = false := by decide

theorem test_wellFormed_fShutdown : (Instr.fShutdown 0 0xFF).wellFormed = true ∧ (Instr.fShutdown 1 0).wellFormed = false := by decide

theorem test_wellFormed_fAddrD : (Instr.fAddrD 0 0xFF).wellFormed = true ∧ (Instr.fAddrD 1 0).wellFormed = false := by decide

theorem test_wellFormed_fAddrE : (Instr.fAddrE 0 0xFF).wellFormed = true ∧ (Instr.fAddrE 1 0).wellFormed = false := by decide

theorem test_wellFormed_fDisplayTest : (Instr.fDisplayTest 0 0xFF).wellFormed = true ∧ (Instr.fDisplayTest 1 0).wellFormed = false := by decide

/-- Every command word is well formed (R73, R74). -/
theorem test_wellFormed_commands : (Instr.initTransport 0xFFFF).wellFormed = true ∧ (Instr.txByte 0xFF 0).wellFormed = true ∧
    (Instr.writeReg 0xFF 0).wellFormed = true ∧ (Instr.initDisplay 0xFF 0).wellFormed = true := by decide

/-! ## States -/

/-- The parameters of the two variants, `CPOL = 0`, the strobe reset to `x`. -/
def params (v : Variant) (x : Level) : Params := { variant := v, cpol := false, strobeReset := x }

/-- After `INIT_TRANSPORT`, the receiver at power-on, the default `STROBE_RESET`. -/
def configured (v : Variant) : State :=
  { State.resetFor (params v v.idleLevel) with cfgDone := true, cfg := TransportCfg.legal (params v v.idleLevel) }

/-- The same with the power-on NOOP behind the receiver. -/
def ready (v : Variant) : State := { configured v with rcv := { (configured v).rcv with woken := true } }

/-- V10's start: the receiver as after `INIT_DISPLAY 0x08`. -/
def shown : State :=
  { ready .cs with
    rcv := { (ready .cs).rcv with
              mode := .active,
              rx := [(0, Config.freeCell 0), (1, 0), (2, 0), (3, 0), (4, 0), (5, 0), (6, 0), (7, 0), (8, 0), (9, 0), (0xA, 8),
                     (0xB, 7), (0xC, 1), (0xD, Config.freeCell 0xD), (0xE, Config.freeCell 0xE),
                     (0xF, Config.freeCell 0xF)] } }

/-- `TX_BYTE 0xA5` right after TX-START (V3). -/
def sending : State := { ready .cs with op := .txb, dataHold := 0xA5, txs := true, busy := true, bitcnt := 8, shift := 0xA5 }

/-- V13: `WRITE_REG 0x01, 0x3C` after 11 bit cells, the clock stopped. -/
def hung : State :=
  { ready .cs with
    op := .wr, upc := 2, addrHold := 1, dataHold := 0x3C, txs := true, busy := true, bitcnt := 5, shift := 0xE0,
    mosi := true, strobe := false, clk := false,
    rcv := { (ready .cs).rcv with nbits := 11, rshift := 0x0009, prevStrobe := false } }

/-- V13: the same for `LOAD`, the strobe line resting low. -/
def hungLoad : State :=
  { ready .load with
    op := .wr, upc := 1, addrHold := 1, dataHold := 0x3C, txs := true, busy := true, bitcnt := 5, shift := 0xE0,
    mosi := true, clk := false,
    rcv := { (ready .load).rcv with nbits := 11, rshift := 0x0009 } }

/-- V13: the same with 16 cells sent, `STB(1)` due. -/
def committing : State :=
  { ready .cs with
    op := .wr, upc := 3, addrHold := 1, dataHold := 0x3C, strobe := false,
    rcv := { (ready .cs).rcv with nbits := 16, rshift := 0x013C, prevStrobe := false } }

/-- `LOAD` with the strobe line high on entry (V7, fourth row). -/
def highLoad : State := { ready .load with strobe := true, rcv := { (ready .load).rcv with prevStrobe := true } }

/-- A state with the next moves of host and platform given. -/
def withMoves (s : State) (ms : List HostMove) : State := { s with moves := ms }

/-- A read-out of the next state. -/
def get {α : Type} (o : Host.Outcome State Fault Refusal) (f : State → α) : Option α :=
  match o with
  | .next t => some (f t)
  | .fault _ => none
  | .refused _ => none

/-- The rows and bits lit of row `n`, as `LIT` has them (R139). -/
def litRow (s : State) (n : Fin 8) : List (Option Bool) := [0, 1, 2, 3, 4, 5, 6, 7].map fun k => s.rcv.lit n k

/-- A row read as a bitmap. -/
def bits (v : Byte) : List (Option Bool) := [0, 1, 2, 3, 4, 5, 6, 7].map fun k => some (v.getLsbD k)

/-- What the cells named hold. -/
def cells (s : State) (ks : List Nat) : List (Option Byte) := ks.map s.rcv.rx.read

/-- A row of which nothing is known. -/
def dim : List (Option Bool) := List.replicate 8 none

/-! ## One step against the vectors -/

/-- V1, first row: from reset `C(0) D(0)`, configured, the strobe unchanged. -/
theorem test_initTransport : get (exec (.initTransport 0) State.reset) (fun t =>
    (t.trace, t.cfgDone, t.sclk, t.mosi, t.strobe, t.ready)) =
    some ([.clock false, .data false], true, false, false, true, true) := by decide

/-- V1, fourth row: `CPOL = 1` gives `C(1) D(0)`. -/
theorem test_initTransport_cpol : get (exec (.initTransport 0xFFFF) (State.resetFor { variant := .load, cpol := true, strobeReset := false }))
    (fun t => (t.trace, t.sclk, t.rcv.nbits)) = some ([.clock true, .data false], true, 0) := by decide

/-- The three events of a bit cell with `CPOL = 0`, as V6 writes them. -/
def cell (b : Level) : List Event := [.data b, .clock true, .clock false]

/-- V2: the 24 events of `TX_BYTE 0xA5`. -/
theorem test_txByte : get (exec (.txByte 0 0xA5) (ready .cs)) (fun t => (t.trace, t.mosi, t.busy, t.bitcnt, t.shift)) =
    some ([.data true, .clock true, .clock false, .data false, .clock true, .clock false, .data true, .clock true,
      .clock false, .data false, .clock true, .clock false, .data false, .clock true, .clock false, .data true,
      .clock true, .clock false, .data false, .clock true, .clock false, .data true, .clock true, .clock false],
      true, false, 0, 0) := by decide

/-- V12, second row: a stray byte before a LOAD write, 24 bits at the edge, the last 16 commit. -/
theorem test_txByte_stray : (match exec (.txByte 0 0xFF) (ready .load) with
    | .next t => get (exec (.writeReg 0x01 0x3C) t) (fun u => (u.rcv.rx.read 1, u.rcv.rxRefused))
    | .fault _ => none
    | .refused _ => none) = some (some 0x3C, false) := by decide

/-- V6-CS: the 50 events of `WRITE_REG 0x01, 0x3C`. -/
def expectedCs : List Event :=
  .strobe false :: ([false, false, false, false, false, false, false, true, false, false, true, true, true, true, false,
    false].flatMap cell ++ [.strobe true])

theorem test_writeReg_cs : get (exec (.writeReg 0x01 0x3C) (ready .cs)) (fun t => t.trace) = some expectedCs := by
  decide +kernel

/-- V6-LOAD: the 50 events of `WRITE_REG 0x0C, 0x01`. -/
def expectedLoad : List Event :=
  [false, false, false, false, true, true, false, false, false, false, false, false, false, false, false, true].flatMap
    cell ++ [.strobe true, .strobe false]

/-- V6-LOAD and V10: the strobe is low again and the receiver Active. -/
theorem test_writeReg_load : get (exec (.writeReg 0x0C 0x01) (ready .load)) (fun t =>
    (t.trace, t.strobe, t.rcv.mode, t.rcv.rx.read 0xC)) = some (expectedLoad, false, .active, some 1) := by decide +kernel

/-- V9, row `0xFF`, `CS`, from the receiver's power-on. -/
theorem test_initDisplay : get (exec (.initDisplay 0 0xFF) (configured .cs)) (fun t =>
    (t.rcv.mode, cells t [1, 2, 3, 4, 5, 6, 7, 8], cells t [9, 0xA, 0xB, 0xC])) =
    some (.active, List.replicate 8 (some 0), [some 0, some 0xFF, some 7, some 1]) := by decide +kernel

/-- V9, `LOAD` with `STROBE_RESET = 1`: the NOOP is lost, nothing is trusted. -/
theorem test_initDisplay_lost : get (exec (.initDisplay 0 0x08)
    { configured .load with strobe := true, rcv := { (configured .load).rcv with prevStrobe := true } })
    (fun t => (t.rcv.woken, t.rcv.modeKnown, t.strobe)) = some (false, false, false) := by decide +kernel

/-- V10: F.NOOP writes no cell. -/
theorem test_fNoop : exec (.fNoop 0 0xFF) shown = .next shown ∧
    exec (.fNoop 0 0) (configured .cs) = .next (ready .cs) := ⟨rfl, rfl⟩

/-- V10: `DIGIT0`, its row lit as its bits say, the neighbours dark. -/
theorem test_fDigit0 : get (exec (.fDigit0 0 0x3C) shown) (fun t => (t.rcv.rx.read 1, litRow t 0, litRow t 1)) =
    some (some 0x3C, bits 0x3C, bits 0) := by decide

/-- V10: `DIGIT1`, its row lit as its bits say, the neighbours dark. -/
theorem test_fDigit1 : get (exec (.fDigit1 0 0x7E) shown) (fun t => (t.rcv.rx.read 2, litRow t 1, litRow t 2)) =
    some (some 0x7E, bits 0x7E, bits 0) := by decide

/-- V10: `DIGIT2`, its row lit as its bits say, the neighbours dark. -/
theorem test_fDigit2 : get (exec (.fDigit2 0 0xFF) shown) (fun t => (t.rcv.rx.read 3, litRow t 2, litRow t 3)) =
    some (some 0xFF, bits 0xFF, bits 0) := by decide

/-- V10: `DIGIT3`, its row lit as its bits say, the neighbours dark. -/
theorem test_fDigit3 : get (exec (.fDigit3 0 0x81) shown) (fun t => (t.rcv.rx.read 4, litRow t 3, litRow t 4)) =
    some (some 0x81, bits 0x81, bits 0) := by decide

/-- V10: `DIGIT4`, its row lit as its bits say, the neighbours dark. -/
theorem test_fDigit4 : get (exec (.fDigit4 0 0x18) shown) (fun t => (t.rcv.rx.read 5, litRow t 4, litRow t 5)) =
    some (some 0x18, bits 0x18, bits 0) := by decide

/-- V10: `DIGIT5`, its row lit as its bits say, the neighbours dark. -/
theorem test_fDigit5 : get (exec (.fDigit5 0 0x24) shown) (fun t => (t.rcv.rx.read 6, litRow t 5, litRow t 6)) =
    some (some 0x24, bits 0x24, bits 0) := by decide

/-- V10: `DIGIT6`, its row lit as its bits say, the neighbours dark. -/
theorem test_fDigit6 : get (exec (.fDigit6 0 0x42) shown) (fun t => (t.rcv.rx.read 7, litRow t 6, litRow t 7)) =
    some (some 0x42, bits 0x42, bits 0) := by decide

/-- V10: `DIGIT7`, its row lit as its bits say, the neighbours dark. -/
theorem test_fDigit7 : get (exec (.fDigit7 0 0x01) shown) (fun t => (t.rcv.rx.read 8, litRow t 7, litRow t 0)) =
    some (some 0x01, bits 0x01, bits 0) := by decide

/-- V10: enables some decoding: what is shown is unspecified. -/
theorem test_fDecodeMode : get (exec (.fDecodeMode 0 0xFF) shown) (fun t => (t.rcv.rx.read 9, t.rcv.mode, litRow t 0)) =
    some (some 0xFF, .active, dim) := by decide

/-- V10: stored whole, the display as before. -/
theorem test_fIntensity : get (exec (.fIntensity 0 0x10) shown) (fun t => (t.rcv.rx.read 0xA, t.rcv.mode, litRow t 0)) =
    some (some 0x10, .active, bits 0) := by decide

/-- V10: not all rows scanned: what is shown is unspecified. -/
theorem test_fScanLimit : get (exec (.fScanLimit 0 0x03) shown) (fun t => (t.rcv.rx.read 0xB, t.rcv.mode, litRow t 0)) =
    some (some 0x03, .active, dim) := by decide

/-- V10: stored, no observable depends on it. -/
theorem test_fAddrD : get (exec (.fAddrD 0 0x55) shown) (fun t => (t.rcv.rx.read 0xD, t.rcv.mode, litRow t 0)) =
    some (some 0x55, .active, bits 0) := by decide

/-- V10: stored, no observable depends on it. -/
theorem test_fAddrE : get (exec (.fAddrE 0 0x00) shown) (fun t => (t.rcv.rx.read 0xE, t.rcv.mode, litRow t 0)) =
    some (some 0x00, .active, bits 0) := by decide

/-- V10: even 0 differs from the power-on content. -/
theorem test_fDisplayTest : get (exec (.fDisplayTest 0 0x00) shown) (fun t => (t.rcv.rx.read 0xF, t.rcv.mode, litRow t 0)) =
    some (some 0x00, .active, dim) := by decide

/-- V10: SHUTDOWN 0 darkens the display, the cells kept. -/
theorem test_fShutdown : get (exec (.fShutdown 0 0) shown) (fun t => (t.rcv.rx.read 0xC, t.rcv.mode, t.rcv.rx.read 9, litRow t 0)) =
    some (some 0, .shutdown, some 0, bits 0) := by decide

/-- V10: SHUTDOWN 2 leaves `MODE` unspecified, the cell written. -/
theorem test_fShutdown_other : get (exec (.fShutdown 0 2) shown) (fun t => (t.rcv.rx.read 0xC, t.rcv.modeKnown, litRow t 0)) =
    some (some 2, false, dim) := by decide

/-- R142: the same SHUTDOWN data committed again change nothing, `MODE` included. -/
theorem test_fShutdown_twice : (match exec (.fShutdown 0 2) shown with
    | .next t => get (exec (.fShutdown 0 2) t) (fun u => (u.rcv.free, u.rcv.rx.read 0xC))
    | .fault _ => none
    | .refused _ => none) = some (17, some 2) := by decide

/-- V11, second row: SHUTDOWN 1 before the NOOP is not trusted. -/
theorem test_before_noop : get (exec (.fShutdown 0 1) (configured .cs)) (fun t => (t.rcv.modeKnown, t.rcv.woken)) =
    some (false, false) := by decide

/-- V8: from reset `WRITE_REG` is refused, and `INIT_TRANSPORT` accepted. -/
theorem test_refused : step (State.reset.withFetchWord 24 0x00000) = exec (.initTransport 0) State.reset ∧
    step (withMoves State.reset [.present 0x2013C]) = .refused .operationBeforeInitTransport := ⟨rfl, rfl⟩

/-- R85, R164, R172: `INIT_TRANSPORT` runs with the clock standing still too, and the duty stays broken when the clock runs
again; a stop after `INIT_TRANSPORT` does not break it. -/
theorem test_clock_duty : get (exec (.initTransport 0) { State.reset with clk := false })
      (fun t => (t.trace, t.cfgDone, (t.setClock true).clockStable)) = some ([.clock false, .data false], true, false) ∧
    ((State.reset.setClock false).setClock true).clockStable = false ∧
    ((configured .cs).setClock false).clockStable = true := by decide

/-- R164, R170: at `rst` the duty begins anew, and a clock that stood still then may start before `INIT_TRANSPORT`. -/
theorem test_clock_duty_reset : (State.reset.setClock false).blockReset.clockStable = true ∧
    get (exec (.initTransport 0) (hung.blockReset.setClock true)) (fun t => (t.clk, t.clockStable)) = some (true, true) := by
  decide

/-- R90: a bit cell without a stable clock counts down all the same. -/
theorem test_bitCell_unstable : get (step { sending with clockStable := false }) (fun t => (t.bitcnt, t.shift, t.busy)) =
    some (7, 0x4A, true) := by decide

/-- V3: the first bit cell of `TX_BYTE 0xA5`. -/
theorem test_bitCell : get (step sending) (fun t => (t.bitcnt, t.shift, t.mosi, t.trace)) =
    some (7, 0x4A, true, [.data true, .clock true, .clock false]) := by decide

/-- V13: `rst` with 11 bits sent: the receiver refuses. -/
theorem test_reset_in_frame : get (step (withMoves hung [.after 0 .rst])) (fun t => (t.op, t.busy, t.strobe, t.rcv.rxRefused)) =
    some (.none, false, true, true) := by decide

/-- R154, D26: the start of the clock does not leave the hang, `rst` does, and the clock may start after it. -/
theorem test_hang_exit : get (step (withMoves hung [.after 0 (.clock true)])) (fun t =>
      (t.clk, t.busy, t.bitcnt, t.blockStep.isSome)) = some (false, true, 5, false) ∧
    get (step (withMoves (hung.setClock true) [.after 0 .rst])) (fun t => (t.busy, (t.setClock true).clk)) =
      some (false, true) := by decide

/-- V13, `LOAD`: one `rst` out of the hang, the clock running again, `INIT_TRANSPORT` and the write once more: the last of 27
bits are that frame. -/
theorem test_load_after_hang : hungLoad.strobe = false ∧ hungLoad.params.strobeReset = false ∧
    (hungLoad.blockReset.setClock true).rcv.nbits = 11 ∧
    get (execAll [.initTransport 0, .writeReg 0x01 0x3C] (hungLoad.blockReset.setClock true)) (fun t =>
      (t.trace.length, t.rcv.rshift, t.rcv.rx.read 1, t.rcv.rxRefused)) = some (52, 0x013C, some 0x3C, false) := by
  decide +kernel

/-- V13, `LOAD`: after its two bytes that write raises the strobe line with 27 bits. -/
theorem test_load_after_hang_bits : get (exec (.initTransport 0)
      (withMoves hungLoad [.after 0 .rst, .after 0 (.clock true)]).proceed.proceed) (fun t =>
      let u := (t.accept .wr 1 0x3C).run 20
      (u.rcv.nbits, u.frameDue)) = some (27, some 0x013C) := by decide +kernel

/-- V13: `rst` with 16 bits sent: the write commits although the operation was abandoned. -/
theorem test_reset_after_frame : get (step (withMoves committing [.after 0 .rst])) (fun t => (t.op, t.rcv.rx.read 1, t.rcv.rxRefused)) =
    some (.none, some 0x3C, false) := by decide

/-- A frame is the next instruction where the strobe is about to rise: V10's `0x0C01` from the reset state with
the power-on NOOP behind it. -/
theorem test_fetch_frame : get (step ((ready .load).withFetchWord 16 0x0C01)) (fun t => (t.rcv.rx.read 0xC, t.rcv.mode)) =
    some (some 1, .active) := by decide

/-! ## A state and operands for the hypotheses of every obligation that has some -/

theorem witness_WriteRegSendsExactlyTwoBytes : (configured .cs).able ∧ (configured .load).able := by decide

theorem witness_WriteRegSendsTheFrameBits : (configured .cs).able ∧ (configured .load).able := by decide

theorem witness_TxByteCompletes : (configured .cs).able ∧ (configured .load).able := by decide

theorem witness_WriteRegCompletes : (configured .cs).able ∧ (configured .load).able := by decide

theorem witness_InitDisplayCompletes : (configured .cs).able ∧ (configured .load).able := by decide

theorem witness_TruncationLaw : (configured .cs).able ∧ (configured .load).able := by decide

theorem witness_InitializationOrder : (configured .cs).able ∧ (configured .load).able := by decide

theorem witness_InitDisplayEqualsThirteenWrites : (configured .cs).able ∧ (configured .load).able := by decide

theorem witness_ShiftRegisterHoldsTheFrame : (configured .cs).able ∧ (configured .load).able := by decide

theorem witness_StepRunsTheAcceptedOperation : (ready .cs).op = .none ∧
    (withMoves (ready .cs) [.present 0x2013C]).moves = .present 0x2013C :: [] ∧
    (withMoves (ready .cs) [.after 0 (.offer 0x2013C)]).moves = .after 0 (.offer 0x2013C) :: [] ∧
    (withMoves (ready .cs) [.after 7 (.offer 0x2013C)]).moves = .after 7 (.offer 0x2013C) :: [] := by decide

/-- 16 bits, more, and one too few. -/
theorem witness_StepRunsTheFrameAtTheRisingEdge : committing.undisturbed = true ∧ committing.frameDue = some 0x013C ∧
    { committing with rcv := { committing.rcv with nbits := 24 } }.frameDue = some 0x013C ∧
    { committing with rcv := { committing.rcv with nbits := 15 } }.frameDue = none := by decide

theorem witness_NothingIsAcceptedWhileNotReady : sending.op ≠ .none ∧ (withMoves sending [.after 0 (.offer 0x2013C)]).op ≠ .none ∧
    (withMoves sending [.after 0 (.offer 0x2013C)]).moves = .after 0 (.offer 0x2013C) :: [] ∧
    (withMoves sending [.present 0x2013C]).moves = .present 0x2013C :: [] ∧
    (withMoves hung [.present 0x2013C]).blockStep = none := by decide

theorem witness_OperationsBeforeInitTransportAreRefused : State.reset.op = .none ∧ State.reset.cfgDone = false := by decide

theorem witness_InitTransportCompletes : State.reset.idle ∧ State.reset.undisturbed = true ∧ (ready .load).idle ∧
    (ready .load).undisturbed = true ∧ (withMoves State.reset [.present 0]).undisturbed = true ∧
    (State.reset.setClock false).idle ∧ (State.reset.setClock false).undisturbed = true := by decide

theorem witness_ChipSelectTraceOfAWrite : (configured .cs).able ∧ (configured .cs).params.variant = .cs := by decide

theorem witness_LoadPulseTraceOfAWrite : (configured .load).able ∧ (configured .load).params.variant = .load := by decide

/-- V7: either level on entry. -/
theorem witness_StrobeIdleAfterRegisterWrites : (configured .cs).able ∧ (configured .cs).params.variant = .cs ∧ (configured .load).able ∧
    (configured .load).params.variant = .load ∧ { configured .cs with strobe := false }.runnable ∧
    { configured .load with strobe := true }.runnable ∧ { configured .cs with clockStable := false }.runnable := by decide

theorem witness_InitDisplayTraceSize : (configured .cs).able ∧ (configured .cs).params.variant = .cs ∧ (configured .load).able ∧
    (configured .load).params.variant = .load := by decide

theorem witness_InitDisplayConfiguresTheReceiver : (configured .cs).able ∧ (configured .cs).rcv.rxRefused = false ∧
    (configured .cs).rcv.prevStrobe = (configured .cs).params.variant.idleLevel ∧ (configured .cs).rcv.testWritten = false ∧
    (configured .load).able ∧ (configured .load).rcv.rxRefused = false ∧
    (configured .load).rcv.prevStrobe = (configured .load).params.variant.idleLevel := by decide

theorem witness_WriteRegReachesItsRegister : (ready .cs).able ∧ (ready .cs).rcv.trusted ∧
    ((ready .cs).params.variant = .load → (ready .cs).rcv.prevStrobe = false) ∧ (ready .load).able ∧
    (ready .load).rcv.trusted ∧ ((ready .load).params.variant = .load → (ready .load).rcv.prevStrobe = false) ∧
    maskAddress 0xFF ≠ 0 ∧ maskAddress 0x01 ≠ 0 ∧ maskAddress 0x10 = 0 ∧ (0 : Nat) ≠ (maskAddress 0xFF).toNat := by decide

theorem witness_RegisterWritesTouchOnlyTheirCells : (configured .cs).able ∧ (configured .cs).rcv.rxRefused = false ∧
    highLoad.able ∧ highLoad.rcv.rxRefused = false ∧
    (0 < 1 ∨ 0xC < 0) ∧ (0xD < 1 ∨ 0xC < 0xD) := by decide

theorem witness_LoadWriteIsLostOnAHighStrobe : highLoad.able ∧ highLoad.params.variant = .load ∧ highLoad.rcv.prevStrobe = true ∧
    highLoad.rcv.trusted ∧ maskAddress 0xFF ≠ 0 := by decide

theorem witness_LaterWritesWin : (ready .cs).able ∧ (ready .cs).rcv.trusted ∧
    ((ready .cs).params.variant = .load → (ready .cs).rcv.prevStrobe = false) ∧ (ready .load).able ∧
    (ready .load).rcv.trusted ∧ ((ready .load).params.variant = .load → (ready .load).rcv.prevStrobe = false) ∧
    maskAddress 0x01 ≠ 0 ∧ maskAddress 0xF2 ≠ 0 ∧ maskAddress 0x01 ≠ maskAddress 0xF2 := by decide

theorem witness_DigitFramesWriteTheirRows : shown.rcv.trusted ∧ shown.rcv.showsBitmaps ∧ (ready .load).rcv.trusted := by decide

theorem witness_ConfigurationFramesWriteTheirCells : shown.rcv.trusted ∧ (ready .load).rcv.trusted := by decide

theorem witness_DisplayTestFrameStoresAndHidesTheDisplay : shown.rcv.trusted ∧ shown.rcv.mode = .active ∧ (0 : Nat) ≠ 0xF := by decide

theorem witness_NoopFrameOnlyWakes : State.reset.rcv.rxRefused = false ∧ shown.rcv.rxRefused = false := by decide

/-- Drawn, and not drawn again. -/
theorem witness_ShutdownFrameSetsTheMode : shown.rcv.trusted ∧ (2 : Byte) ≠ 0 ∧ (2 : Byte) ≠ 1 ∧ (0xFF : Byte) ≠ 0 ∧ (0xFF : Byte) ≠ 1 ∧
    ¬(shown.rcv.modeKnown = false ∧ shown.rcv.rx.read 0xC = some 2) ∧
    { shown.rcv with modeKnown := false, rx := shown.rcv.rx.write 0xC 2 }.modeOpenFrom 2 ∧
    { shown.rcv with modeKnown := false, rx := shown.rcv.rx.write 0xC 2 }.trusted := by decide

theorem witness_FramesBeforeTheNoopAreNotTrusted : (configured .cs).rcv.woken = false ∧ (configured .cs).rcv.rxRefused = false ∧
    frameTarget (.fDigit0 0 0x3C) = some (0x1, 0x3C) ∧ frameTarget (.fDisplayTest 0 0) = some (0xF, 0) ∧
    frameTarget (.fShutdown 0 1) = some (0xC, 1) ∧ (0x1 : Nibble) ≠ 0 ∧ (0xF : Nibble) ≠ 0 ∧ (0xC : Nibble) ≠ 0 ∧
    (0x1 : Nibble) ≠ 0xC ∧ (0xF : Nibble) ≠ 0xC := by decide

theorem witness_ARefusedReceiverStaysUnspecified : frameTarget (.fNoop 0 0) = some (0, 0) ∧
    { shown.rcv with rxRefused := true }.rxRefused = true ∧ frameTarget (.fDisplayTest 0xF 1) = some (0xF, 1) := by decide

theorem witness_FramesTouchOnlyTheReceiver : frameTarget (.fNoop 0 0xFF) = some (0, 0xFF) ∧ frameTarget (.fDisplayTest 1 0) = some (0xF, 0) := by decide

theorem witness_UpperNibbleIsIgnored : (0x0C01 : Frame).extractLsb' 0 12 = (0xFC01 : Frame).extractLsb' 0 12 ∧ (0x0C01 : Frame) ≠ 0xFC01 := by decide

theorem witness_UnusedCommandBitsAreIgnored : commandOp 0x00000 = commandOp 0x0FFFF ∧ commandOp 0x00000 = 0 ∧
    commandOp 0x1003C = commandOp 0x1FF3C ∧ commandOp 0x1003C = 1 ∧ commandD 0x1003C = commandD 0x1FF3C ∧
    commandOp 0x20C01 = commandOp 0x2FC01 ∧ commandOp 0x20C01 = 2 ∧
    (0x20C01 : Command).extractLsb' 0 12 = (0x2FC01 : Command).extractLsb' 0 12 ∧
    commandOp 0x30008 = commandOp 0x3FF08 ∧ commandOp 0x30008 = 3 ∧ commandD 0x30008 = commandD 0x3FF08 := by decide

theorem witness_BusyIsSetByTxStartAndClearedByTheEighthCell : { sending with busy := false, txs := false, bitcnt := 0 }.blockStep.map State.busy = some true ∧
    { sending with bitcnt := 1 }.blockStep.map State.busy = some false ∧
    { sending with bitcnt := 2 }.blockStep.map State.busy = some true := by decide

/-- TX_BYTE in flight meets the invariants. -/
theorem sending_inv : sending.Inv where
  idle_rest h := absurd h (by decide)
  busy_txs _ := rfl
  txs_tx _ := ⟨0xA5, by decide⟩
  busy_count := by decide
  count_le := by decide
  configured := by decide
  clock_idle := by decide
  upc_lt := by decide
  strobe_seen := rfl
  cells_wf := Memory.wf_unspecified 0

/-- The hang of V13 meets the invariants. -/
theorem hung_inv : hung.Inv where
  idle_rest h := absurd h (by decide)
  busy_txs _ := rfl
  txs_tx _ := ⟨0x3C, by decide⟩
  busy_count := by decide
  count_le := by decide
  configured := by decide
  clock_idle := by decide
  upc_lt := by decide
  strobe_seen := rfl
  cells_wf := Memory.wf_unspecified 0

/-- So does the state in which the host presents the next operation. -/
theorem presented_inv : (withMoves (ready .cs) [.present 0x00000]).Inv where
  idle_rest := by decide
  busy_txs h := absurd h (by decide)
  txs_tx h := absurd h (by decide)
  busy_count := by decide
  count_le := by decide
  configured := by decide
  clock_idle := by decide
  upc_lt h := absurd rfl h
  strobe_seen := rfl
  cells_wf := Memory.wf_unspecified 0

theorem witness_OneBitCell : sending.clockStable = true ∧ { sending with clockStable := false }.clockStable = false ∧
    (withMoves State.reset [.after 0 (.clock false)]).moves = .after 0 (.clock false) :: [] ∧
    (withMoves hung [.after 0 (.clock true)]).moves = .after 0 (.clock true) :: [] := by decide

theorem witness_OneAgentAtATime : sending.Inv ∧ sending.transmitterStep = some sending.bitCell := ⟨sending_inv, rfl⟩

theorem witness_AStoppedClockHangsTheByteInFlight : (hung.Inv ∧ hung.busy = true ∧ hung.clk = false ∧ hung.undisturbed = true ∧
    ∀ n ms, hung.moves ≠ .after n .rst :: ms) ∧
    (∀ n ms, (withMoves hung [.after 0 (.clock true)]).moves ≠ .after n .rst :: ms) ∧
    { sending with busy := false, txs := false, bitcnt := 0 }.currentMicro = some (.tx 0xA5) ∧
    sending.clk = true ∧ sending.clockStable = true ∧ 0 ≤ 7 ∧ 7 ≤ 7 := ⟨⟨hung_inv, rfl, rfl, rfl, by simp [hung, ready, configured, State.resetFor]⟩, by simp [withMoves], by decide⟩

theorem witness_ResetFromAnyState : (withMoves hung [.after 0 .rst]).moves = .after 0 .rst :: [] ∧
    (withMoves (ready .cs) [.after 0 .rst]).moves = .after 0 .rst :: [] ∧
    get (step (withMoves hung [.after 0 .rst])) State.undisturbed = some true := by decide

theorem witness_ResetLeavesTheReceiverAlone : (withMoves shown [.after 0 .rst]).moves = .after 0 .rst :: [] ∧
    (shown.rcv.prevStrobe = true ∨ shown.params.strobeReset = false) ∧ shown.rcv.prevStrobe = shown.params.strobeReset ∧
    ((ready .load).rcv.prevStrobe = true ∨ (ready .load).params.strobeReset = false) ∧
    (ready .load).rcv.prevStrobe = (ready .load).params.strobeReset := by decide

/-- 16 bits and fewer. -/
theorem witness_ResetInMidFrame : (withMoves committing [.after 0 .rst]).moves = .after 0 .rst :: [] ∧ committing.rcv.prevStrobe = false ∧
    committing.params.strobeReset = true ∧ 16 ≤ committing.rcv.nbits ∧ hung.rcv.prevStrobe = false ∧
    hung.params.strobeReset = true ∧ hung.rcv.nbits < 16 ∧
    { committing.rcv with nbits := 15 }.nbits < 16 := by decide

theorem witness_StepsKeepTheInvariants : sending.Inv ∧ step sending = .next sending.bitCell ∧
    (withMoves (ready .cs) [.present 0x00000]).Inv ∧
    step (withMoves (ready .cs) [.present 0x00000]) = exec (.initTransport 0) (ready .cs) := ⟨sending_inv, rfl, presented_inv, rfl⟩

theorem witness_ParametersNeverChange : step sending = .next sending.bitCell ∧ exec (.fNoop 0 0) shown = .next shown := ⟨rfl, rfl⟩

theorem witness_NothingFlowsBackFromTheReceiver : step sending = .next sending.bitCell ∧
    step (withMoves State.reset [.present 0x2013C]) = .refused .operationBeforeInitTransport := ⟨rfl, rfl⟩

theorem witness_RegisterWritesAreWellFormedFrames : (configured .cs).able ∧ (configured .cs).params.variant = .cs ∧
    (configured .cs).rcv.prevStrobe = (configured .cs).params.variant.idleLevel ∧ (configured .load).able ∧
    (configured .load).params.variant = .load ∧ (configured .load).rcv.nbits = 0 ∧
    (configured .load).rcv.prevStrobe = (configured .load).params.variant.idleLevel := by decide

theorem witness_WhatTheDisplayShows : { shown.rcv with modeKnown := false }.modeKnown = false ∧ (ready .cs).rcv.modeKnown = true ∧
    (ready .cs).rcv.mode = .shutdown ∧ shown.rcv.showsBitmaps ∧ { shown.rcv with testWritten := true }.mode = .active ∧
    ¬{ shown.rcv with testWritten := true }.showsBitmaps := by decide

theorem witness_CellsChangeOnlyAtTheRisingEdge : sending.blockStep = some sending.bitCell ∧
    ¬(sending.currentMicro = some (.stb true) ∧ sending.rcv.prevStrobe = false) := ⟨rfl, by decide⟩

theorem witness_CommittingTwiceIsCommittingOnce : frameTarget (.fDigit3 0 0) = some (0x4, 0) ∧ shown.rcv.trusted ∧
    frameTarget (.fShutdown 0 0) = some (0xC, 0) ∧ frameTarget (.fShutdown 0 1) = some (0xC, 1) ∧
    frameTarget (.fShutdown 0 2) = some (0xC, 2) ∧ frameTarget (.fNoop 0 1) = some (0, 1) := by decide

theorem witness_UpcAdvancesByOne : sending.Inv ∧ sending.blockStep = some sending.bitCell := ⟨sending_inv, rfl⟩

theorem witness_TheTraceOnlyGrows : sending.blockStep = some sending.bitCell ∧ exec (.fNoop 0 0) shown = .next shown := ⟨rfl, rfl⟩

theorem witness_ReceiverPowerCycle : (withMoves shown [.after 0 .powerCycle]).moves = .after 0 .powerCycle :: [] := by decide

end Sys2Proof.Tests
end

section
/-! What an instruction leads to, one lemma for all twenty. -/

namespace Sys2Proof.Machine

/-- An instruction is a frame committed at the receiver or an operation issued at the command port. -/
theorem exec_cases (i : Instr) (s : State) :
    (∃ a d, exec i s = .next (s.commitFrame a d)) ∨ (∃ o r d, o ≠ .none ∧ exec i s = s.issue o r d) := by
  cases h : frameTarget i with
  | some x => exact .inl ⟨x.1, x.2, exec_frame h s⟩
  | none =>
    cases i with
    | initTransport u => exact .inr ⟨.initT, s.addrHold, s.dataHold, by decide, rfl⟩
    | txByte u v => exact .inr ⟨.txb, s.addrHold, v, by decide, rfl⟩
    | writeReg a d => exact .inr ⟨.wr, maskAddress a, d, by decide, rfl⟩
    | initDisplay u v => exact .inr ⟨.initD, s.addrHold, v, by decide, rfl⟩
    | _ => cases h

/-- What quiet steps, acceptance and commits keep, an instruction keeps. -/
theorem exec_induct {P : State → Prop} (hquiet : ∀ s t, P s → s.quietStep = some t → P t)
    (haccept : ∀ s o r d, P s → s.op = .none → s.admits o = true → o ≠ .none → P (s.accept o r d))
    (hcommit : ∀ s a d, P s → P (s.commitFrame a d)) {i : Instr} {s t : State} (hs : P s)
    (h : exec i s = .next t) : P t := by
  rcases exec_cases i s with ⟨a, d, hx⟩ | ⟨o, r, d, hne, hx⟩
  · cases hx.symm.trans h
    exact hcommit s a d hs
  · rcases State.issue_cases s o r d with ⟨_, hi⟩ | ⟨_, _, hi⟩ | ⟨ho, ha, hi⟩ <;> cases (hx.trans hi).symm.trans h
    · exact hs
    · exact State.run_induct hquiet _ _ (haccept s o r d hs ho ha hne)

end Sys2Proof.Machine
end

section
/-! The parameters are fixed (00_scope.md R5 to R7, 10_state.md R43). -/

namespace Sys2Proof.Machine

theorem State.quietStep_params {s t : State} (h : s.quietStep = some t) : t.params = s.params := by
  obtain ⟨u, ms, hb, rfl⟩ := State.quietStep_cases h
  exact (State.blockStep_keeps hb).1

@[simp] theorem State.happen_params (s : State) (e : PlatformEvent) : (s.happen e).params = s.params := by
  cases e <;> rfl

theorem step_params {s t : State} (h : step s = .next t) : t.params = s.params :=
  step_induct (P := fun u => u.params = s.params) (fun _ _ hu hb => (State.blockStep_keeps hb).1.trans hu)
    (fun _ _ hu => hu) (fun _ _ _ _ hu _ _ _ => hu) (fun u e hu => (State.happen_params u e).trans hu) rfl h

theorem exec_params {i : Instr} {s t : State} (h : exec i s = .next t) : t.params = s.params :=
  exec_induct (P := fun u => u.params = s.params) (fun _ _ hu hq => (State.quietStep_params hq).trans hu)
    (fun _ _ _ _ hu _ _ _ => hu) (fun _ _ _ hu => hu) rfl h

/-- Settles O49: atomic steps, acceptance, commits and every event of host and platform keep the parameters. -/
theorem parametersNeverChange : Obligations.ParametersNeverChange :=
  ⟨fun _ _ => step_params, fun _ _ _ => exec_params⟩

end Sys2Proof.Machine
end

section
/-! Sequencer and transmitter take turns (00_scope.md R15, 60_exceptions.md R151). -/

namespace Sys2Proof.Machine

/-- The transmitter is enabled with a byte in flight and the clock running, and then sends a bit cell (R90, R93). -/
theorem State.transmitterStep_eq_some_iff {s t : State} :
    s.transmitterStep = some t ↔ s.busy = true ∧ s.clk = true ∧ t = s.bitCell := by
  rw [State.transmitterStep, Option.ite_none_right_eq_some, Bool.and_eq_true, and_assoc, Option.some_inj,
    eq_comm (a := s.bitCell)]

/-- While a byte is in flight the sequencer is at the `TX` that started it (10_state.md R44 (b)). -/
theorem State.Inv.currentMicro_of_busy {s : State} (hs : s.Inv) (hb : s.busy = true) :
    ∃ v, s.currentMicro = some (.tx v) :=
  hs.txs_tx (hs.busy_txs hb)

/-- At a `TX` the sequencer waits while a byte is in flight (10_state.md R22, 40_transport.md R89). -/
theorem State.sequencerStep_of_busy {s : State} {v : Byte} (hm : s.currentMicro = some (.tx v))
    (hb : s.busy = true) : s.sequencerStep = none := by
  simp [State.sequencerStep, hm, hb]

/-- Settles O42: with a byte in flight the sequencer is at a `TX`, and there it waits. -/
theorem oneAgentAtATime : Obligations.OneAgentAtATime := by
  intro s t hs ht
  obtain ⟨hb, -, -⟩ := State.transmitterStep_eq_some_iff.1 ht
  obtain ⟨v, hm⟩ := hs.currentMicro_of_busy hb
  exact State.sequencerStep_of_busy hm hb

end Sys2Proof.Machine
end

section
/-! What a step takes off the command port, and what it does with an event of host or platform that is due (10_state.md
R22 ACCEPT, 60_exceptions.md R156). -/

namespace Sys2Proof.Machine

/-- An idle block takes the command word its host presents. -/
theorem State.fetch_present {s : State} {w : Command} {ms : List HostMove} (ho : s.op = .none)
    (hm : s.moves = .present w :: ms) : s.fetch = some (w, { s with moves := ms }) := by
  simp [State.fetch, State.ready, ho, hm]

/-- So it does with one offered for an instant, whatever countdown the offer has left (log entry 3). -/
theorem State.fetch_offer {s : State} {w : Command} {ms : List HostMove} {n : Nat} (ho : s.op = .none)
    (hm : s.moves = .after n (.offer w) :: ms) : s.fetch = some (w, { s with moves := ms }) := by
  simp [State.fetch, State.ready, ho, hm]

/-- With nobody at the port nothing is fetched. -/
theorem State.fetch_nil {s : State} (hm : s.moves = []) : s.fetch = none := by
  simp [State.fetch, hm]

/-- An event that is no offer is no request. -/
theorem State.fetch_event {s : State} {n : Nat} {e : PlatformEvent} {ms : List HostMove}
    (he : ∀ w, e ≠ .offer w) (hm : s.moves = .after n e :: ms) : s.fetch = none := by
  cases e with
  | offer w => exact absurd rfl (he w)
  | rst => simp [State.fetch, hm]
  | clock runs => simp [State.fetch, hm]
  | powerCycle => simp [State.fetch, hm]

theorem step_of_fetch {s u : State} {w : Command} (h : s.fetch = some (w, u)) :
    step s = exec (decodeCommand w) u := by
  simp only [step, h]

theorem step_of_no_fetch {s : State} (h : s.fetch = none) : step s = .next s.proceed := by
  simp only [step, h]

/-- An event that is due comes before the block. -/
theorem State.proceed_event {s : State} {e : PlatformEvent} {ms : List HostMove} (hm : s.moves = .after 0 e :: ms) :
    s.proceed = ({ s with moves := ms } : State).happen e := by
  have hq : s.quietStep = none := by simp [State.quietStep, hm]
  simp [State.proceed, hq, hm]

/-- The step in which an event that is no offer is due is that event. -/
theorem step_event {s : State} {e : PlatformEvent} {ms : List HostMove} (he : ∀ w, e ≠ .offer w)
    (hm : s.moves = .after 0 e :: ms) : step s = .next (({ s with moves := ms } : State).happen e) := by
  rw [step_of_no_fetch (State.fetch_event he hm), State.proceed_event hm]

/-- A block at rest that nobody comes to stays as it is (70_reset_and_hazards.md R169). -/
theorem step_rest {s : State} (ho : s.op = .none) (hb : s.busy = false) (hm : s.moves = []) : step s = .next s := by
  rw [step_of_no_fetch (State.fetch_nil hm)]
  simp [State.proceed, State.quietStep_rest ho hb, hm]

/-- Settles O10: an idle block fetches the word presented or offered, and the step executes what it decodes to. -/
theorem stepRunsTheAcceptedOperation : Obligations.StepRunsTheAcceptedOperation := by
  intro s w ms ho
  exact ⟨fun hm => step_of_fetch (State.fetch_present ho hm), fun n hm => step_of_fetch (State.fetch_offer ho hm)⟩

end Sys2Proof.Machine
end

section
/-! The micro-operation lists and the counter through them: "advance" ends the operation at the last entry and moves to
the next entry before it (10_state.md R20, R22). -/

namespace Sys2Proof.Machine

@[simp] theorem micro_none (p : Params) (r : Nibble) (d : Byte) : micro p .none r d = [] := rfl

theorem micro_ne_nil {o : Op} (ho : o ≠ .none) (p : Params) (r : Nibble) (d : Byte) : micro p o r d ≠ [] := by
  cases o with
  | none => exact absurd rfl ho
  | initT => simp [micro]
  | txb => simp [micro]
  | wr => exact List.ne_nil_of_length_pos (by rw [micro, (wr_size p r d).1]; decide)
  | initD => exact List.ne_nil_of_length_pos (by rw [micro, (writes_size p (initTable d)).1]; exact Nat.succ_pos 51)

/-- The longest list is the one of INIT_DISPLAY: thirteen register writes of four entries (R20). -/
theorem micro_length_le (p : Params) (o : Op) (r : Nibble) (d : Byte) : (micro p o r d).length ≤ 52 := by
  cases o with
  | none => simp [micro]
  | initT => simp [micro]
  | txb => simp [micro]
  | wr => rw [micro, (wr_size p r d).1]; decide
  | initD => rw [micro, (writes_size p (initTable d)).1]; exact Nat.le_refl 52

theorem State.microList_length_le (s : State) : s.microList.length ≤ 52 := micro_length_le ..

/-- The sequencer stands at an entry only with an operation in flight. -/
theorem State.op_ne_none_of_currentMicro {s : State} {m : MicroOp} (hm : s.currentMicro = some m) :
    s.op ≠ .none := by
  intro ho
  simp [State.currentMicro, State.microList, ho] at hm

/-- The sequencer stands inside its list. -/
theorem State.upc_lt_of_currentMicro {s : State} {m : MicroOp} (hm : s.currentMicro = some m) :
    s.upc.toNat < s.microList.length :=
  (List.getElem?_eq_some_iff.1 hm).1

/-- One more entry of a list this short does not wrap the counter. -/
theorem State.upc_succ_toNat {s : State} (h : s.upc.toNat < s.microList.length) :
    (s.upc + 1).toNat = s.upc.toNat + 1 := by
  have := s.microList_length_le
  bv_omega

theorem State.advance_last {s : State} (h : s.atLast = true) (ht : s.txs = false) : s.advance = s.finished := by
  simp [State.advance, State.finished, h, ht]

theorem State.advance_inside {s : State} (h : s.atLast = false) : s.advance = { s with upc := s.upc + 1 } := by
  simp [State.advance, h]

/-- "advance" ends the operation or moves `UPC` on by exactly one. -/
theorem State.advance_upc_cases {s : State} (h : s.upc.toNat < s.microList.length) :
    (s.advance.op = s.op ∧ s.advance.upc.toNat = s.upc.toNat + 1) ∨ (s.advance.op = .none ∧ s.advance.upc = 0) := by
  cases hl : s.atLast with
  | true => exact .inr (by simp [hl])
  | false => exact .inl (by simpa [hl] using State.upc_succ_toNat h)

end Sys2Proof.Machine
end

section
/-! The invariants of 10_state.md R44: they hold right after reset, and every atomic step, every acceptance and every event
of host and platform keeps them. -/

namespace Sys2Proof.Machine

/-- At an entry that is no `TX` the transmitter rests (R44 (b)). -/
theorem State.Inv.rest_of_no_tx {s : State} (hs : s.Inv) (hm : ∀ v, s.currentMicro ≠ some (.tx v)) :
    s.txs = false ∧ s.busy = false := by
  have ht : s.txs = false := Bool.eq_false_iff.2 fun h => (hs.txs_tx h).elim hm
  exact ⟨ht, Bool.eq_false_iff.2 fun h => Bool.false_ne_true (ht.symm.trans (hs.busy_txs h))⟩

/-- `UPC` never reaches 52 (R20). -/
theorem State.Inv.upc_le {s : State} (hs : s.Inv) : s.upc.toNat ≤ 51 := by
  by_cases ho : s.op = .none
  · simp [(hs.idle_rest ho).1]
  · have := hs.upc_lt ho
    have := s.microList_length_le
    omega

/-- Where the whole block rests, only the lines and the receiver's cells are left to check (R44 (e), R39, R45). -/
theorem State.Inv.of_rest {s : State} (ho : s.op = .none) (hu : s.upc = 0) (ht : s.txs = false) (hb : s.busy = false)
    (hc : s.bitcnt = 0) (hclk : s.cfgDone = true → s.sclk = s.params.cpol ∧ s.rcv.prevSclk = s.params.cpol)
    (hstb : s.rcv.prevStrobe = s.strobe) (hrx : s.rcv.rx.wf) : s.Inv where
  idle_rest _ := ⟨hu, ht, hb⟩
  busy_txs := by simp [hb]
  txs_tx := by simp [ht]
  busy_count := by simp [hb, hc]
  count_le := by simp [hc]
  configured := by simp [ho]
  clock_idle := hclk
  upc_lt := by simp [ho]
  strobe_seen := hstb
  cells_wf := hrx

theorem State.Inv.finished {s : State} (hs : s.Inv) (hb : s.busy = false) : s.finished.Inv :=
  .of_rest rfl rfl rfl hb (not_not.1 (mt hs.busy_count.2 (by simp [hb]))) hs.clock_idle hs.strobe_seen hs.cells_wf

/-- "advance", once the transmitter rests, keeps the invariants. -/
theorem State.Inv.advance {s : State} (hs : s.Inv) (ho : s.op ≠ .none) (ht : s.txs = false) (hb : s.busy = false) :
    s.advance.Inv := by
  have hlt := hs.upc_lt ho
  cases hl : s.atLast with
  | true =>
    rw [State.advance_last hl ht]
    exact hs.finished hb
  | false =>
    rw [State.advance_inside hl]
    exact
      { hs with
        idle_rest := fun h => absurd h ho
        txs_tx := by simp [ht]
        upc_lt := fun _ => by
          have hne : s.upc.toNat + 1 ≠ s.microList.length := by simpa [State.atLast] using hl
          have := State.upc_succ_toNat hlt
          change (s.upc + 1).toNat < s.microList.length
          omega }

theorem State.Inv.configure {s : State} (hs : s.Inv) : s.configure.Inv :=
  { hs with
    configured := fun _ => rfl
    clock_idle := fun _ => ⟨rfl, (Receiver.seeClock_keeps ..).2.2⟩
    strobe_seen := (Receiver.seeClock_keeps ..).2.1.trans hs.strobe_seen
    cells_wf := (congrArg Memory.wf (Receiver.seeClock_keeps ..).1).mpr hs.cells_wf }

theorem State.Inv.driveStrobe {s : State} (hs : s.Inv) (v : Level) : (s.driveStrobe v).Inv :=
  { hs with
    clock_idle := fun h => ⟨(hs.clock_idle h).1, (Receiver.seeStrobe_keeps s.rcv v).2.1.trans (hs.clock_idle h).2⟩
    strobe_seen := (Receiver.seeStrobe_keeps s.rcv v).1
    cells_wf := Receiver.seeStrobe_wf hs.cells_wf v }

theorem State.Inv.txEnd {s : State} (hs : s.Inv) (hb : s.busy = false) : s.txEnd.Inv :=
  { hs with
    idle_rest := fun h => ⟨(hs.idle_rest h).1, rfl, hb⟩
    busy_txs := by simp [hb]
    txs_tx := by simp }

theorem State.Inv.txStart {s : State} {v : Byte} (hs : s.Inv) (hm : s.currentMicro = some (.tx v)) :
    (s.txStart v).Inv :=
  { hs with
    idle_rest := fun h => absurd h (State.op_ne_none_of_currentMicro hm)
    busy_txs := fun _ => rfl
    txs_tx := fun _ => ⟨v, hm⟩
    busy_count := by simp
    count_le := by simp }

/-- `BUSY` goes with the last cell: after a cell it is set exactly while cells are left (40_transport.md R90). -/
theorem busyAfterCell_eq_true_iff (left : BitVec 4) (busy : Bool) :
    busyAfterCell left busy = true ↔ left ≠ 0 ∧ busy = true := by
  by_cases h : left = 0 <;> simp [busyAfterCell, h]

theorem State.Inv.bitCell {s : State} (hs : s.Inv) (hb : s.busy = true) : s.bitCell.Inv := by
  obtain ⟨m, es, f, n, k, -, h⟩ := State.bitCell_spec s
  have ho : s.op ≠ .none := fun ho => Bool.false_ne_true ((hs.idle_rest ho).2.2.symm.trans hb)
  rw [h]
  exact
    { hs with
      idle_rest := fun h => absurd h ho
      busy_txs := fun _ => hs.busy_txs hb
      busy_count := (busyAfterCell_eq_true_iff ..).trans (and_iff_left hb)
      count_le := by
        have hc := hs.busy_count.1 hb
        have := hs.count_le
        change (s.bitcnt - 1).toNat ≤ 8
        bv_omega
      clock_idle := fun _ => ⟨rfl, rfl⟩ }

/-- Every atomic step of the block keeps the invariants. -/
theorem State.Inv.blockStep {s t : State} (hs : s.Inv) (h : s.blockStep = some t) : t.Inv := by
  rcases State.blockStep_cases h with ⟨hb, -, rfl⟩ | ⟨hm, rfl⟩ | ⟨v, hm, rfl⟩ | ⟨v, hm, hb, -, rfl⟩ | ⟨v, hm, -, -, rfl⟩
  · exact hs.bitCell hb
  · obtain ⟨ht, hb⟩ := hs.rest_of_no_tx (by simp [hm])
    exact hs.configure.advance (State.op_ne_none_of_currentMicro hm) ht hb
  · obtain ⟨ht, hb⟩ := hs.rest_of_no_tx (by simp [hm])
    exact (hs.driveStrobe v).advance (State.op_ne_none_of_currentMicro hm) ht hb
  · exact (hs.txEnd hb).advance (State.op_ne_none_of_currentMicro hm) rfl hb
  · exact hs.txStart hm

/-- What host and platform do next is no part of the invariants. -/
theorem State.Inv.with_moves {s : State} (hs : s.Inv) (ms : List HostMove) : ({ s with moves := ms } : State).Inv :=
  { hs with }

/-- Acceptance of an admitted operation keeps the invariants. -/
theorem State.Inv.accept {s : State} {o : Op} (hs : s.Inv) (ho : s.op = .none) (ha : s.admits o = true)
    (hne : o ≠ .none) (r : Nibble) (d : Byte) : (s.accept o r d).Inv := by
  obtain ⟨-, -, hb⟩ := hs.idle_rest ho
  exact
    { hs with
      idle_rest := fun h => absurd h hne
      busy_txs := by simp [hb]
      txs_tx := by simp
      configured := fun h => by
        have hi : o ≠ .initT := by rcases h with rfl | rfl | rfl <;> decide
        simpa [State.admits, hi] using ha
      upc_lt := fun _ => List.length_pos_iff.2 (micro_ne_nil hne s.params r d) }

theorem State.Inv.blockReset {s : State} (hs : s.Inv) : s.blockReset.Inv :=
  .of_rest rfl rfl rfl rfl rfl (by simp) (Receiver.seeStrobe_keeps ..).1 (Receiver.seeStrobe_wf hs.cells_wf _)

theorem State.Inv.receiverPowerCycle {s : State} (hs : s.Inv) : s.receiverPowerCycle.Inv :=
  { hs with
    clock_idle := fun h => ⟨(hs.clock_idle h).1, (hs.clock_idle h).1⟩
    strobe_seen := rfl
    cells_wf := Memory.wf_unspecified _ }

/-- Every event of host and platform keeps the invariants. -/
theorem State.Inv.happen {s : State} (hs : s.Inv) (e : PlatformEvent) : (s.happen e).Inv := by
  cases e with
  | offer w => exact hs
  | rst => exact hs.blockReset
  | clock runs => exact { hs with }
  | powerCycle => exact hs.receiverPowerCycle

theorem State.Inv.resetFor (p : Params) : (State.resetFor p).Inv :=
  .of_rest rfl rfl rfl rfl rfl (fun h => absurd h Bool.false_ne_true) rfl (Memory.wf_unspecified 0)

/-- Settles O47: atomic steps, acceptance and every event keep the invariants, so a step does. -/
theorem stepsKeepTheInvariants : Obligations.StepsKeepTheInvariants := by
  intro s t hs h
  exact step_induct (P := State.Inv) (fun _ _ hu hb => hu.blockStep hb) (fun _ ms hu => hu.with_moves ms)
    (fun _ _ r d hu ho ha hne => hu.accept ho ha hne r d) (fun _ e hu => hu.happen e) hs h

/-- Settles O48: the sequencer and the transmitter rest, and the receiver has just been powered on. -/
theorem resetMeetsTheInvariants : Obligations.ResetMeetsTheInvariants :=
  ⟨State.Inv.resetFor, rfl⟩

/-- Settles O56: cells and TX-START leave `UPC` alone, and every other atomic step is an "advance". -/
theorem upcAdvancesByOne : Obligations.UpcAdvancesByOne := by
  intro s t hs h
  refine ⟨hs.upc_le, ?_⟩
  rcases State.blockStep_cases h with ⟨-, -, rfl⟩ | ⟨hm, rfl⟩ | ⟨v, hm, rfl⟩ | ⟨v, hm, -, -, rfl⟩ | ⟨v, -, -, -, rfl⟩
  · exact .inl ⟨s.bitCell_op, s.bitCell_upc⟩
  · exact .inr (State.advance_upc_cases (s := s.configure) (State.upc_lt_of_currentMicro hm))
  · exact .inr (State.advance_upc_cases (s := s.driveStrobe v) (State.upc_lt_of_currentMicro hm))
  · exact .inr (State.advance_upc_cases (s := s.txEnd) (State.upc_lt_of_currentMicro hm))
  · exact .inl ⟨rfl, rfl⟩

end Sys2Proof.Machine
end

section
/-! `BUSY` and the trace, step by step (10_state.md R24, R34). -/

namespace Sys2Proof.Machine

/-- Settles O40: of the atomic steps only TX-START sets `BUSY` and only a bit cell can clear it. -/
theorem busyIsSetByTxStartAndClearedByTheEighthCell :
    Obligations.BusyIsSetByTxStartAndClearedByTheEighthCell := by
  refine ⟨fun s t h => ?_, fun _ => rfl⟩
  rcases State.blockStep_cases h with ⟨hb, -, rfl⟩ | ⟨-, rfl⟩ | ⟨v, -, rfl⟩ | ⟨v, -, hb, -, rfl⟩ |
    ⟨v, hm, hb, ht, rfl⟩
  · refine ⟨fun h0 => absurd (hb.symm.trans h0) (by decide), fun _ h0 => ?_⟩
    have hz : s.bitcnt - 1 = 0 := by
      by_contra hz
      exact Bool.false_ne_true (h0.symm.trans ((busyAfterCell_eq_true_iff ..).2 ⟨hz, hb⟩))
    exact ⟨rfl, hz, sub_eq_zero.1 hz⟩
  · simp +contextual
  · simp +contextual
  · simp [hb]
  · exact ⟨fun _ _ => ⟨v, hm, ht, rfl⟩, by simp⟩

/-- An atomic step only appends to the trace. -/
theorem State.blockStep_trace {s t : State} (h : s.blockStep = some t) : s.trace <+: t.trace := by
  rcases State.blockStep_cases h with ⟨-, -, rfl⟩ | ⟨-, rfl⟩ | ⟨v, -, rfl⟩ | ⟨v, -, -, -, rfl⟩ | ⟨v, -, -, -, rfl⟩
  · obtain ⟨_, es, _, _, _, -, h⟩ := State.bitCell_spec s
    rw [h]
    exact ⟨es, rfl⟩
  · simp
  · simp
  · simp
  · simp

theorem State.quietStep_trace {s t : State} (h : s.quietStep = some t) : s.trace <+: t.trace := by
  obtain ⟨u, ms, hb, rfl⟩ := State.quietStep_cases h
  exact State.blockStep_trace (t := u) hb

/-- An instruction only appends to the trace. -/
theorem exec_trace {i : Instr} {s t : State} (h : exec i s = .next t) : s.trace <+: t.trace :=
  exec_induct (P := fun u => s.trace <+: u.trace) (fun _ _ hu hq => hu.trans (State.quietStep_trace hq))
    (fun _ _ _ _ hu _ _ _ => hu) (fun _ _ _ hu => hu) ⟨[], List.append_nil _⟩ h

/-- Settles O57: an atomic step appends its events, and an instruction is a run of them or a commit, which makes none. -/
theorem theTraceOnlyGrows : Obligations.TheTraceOnlyGrows :=
  ⟨fun _ _ h => (State.blockStep_trace h).imp fun _ => Eq.symm, fun _ _ _ h => (exec_trace h).imp fun _ => Eq.symm⟩

end Sys2Proof.Machine
end

section
/-! Reset (10_state.md R42, 70_reset_and_hazards.md R167 to R170): the state it leaves, and the way back to an able block. -/

namespace Sys2Proof.Machine

/-- No cell has a value outside the register space (20_memory.md R45). -/
theorem Memory.read_eq_none {m : Memory} (h : m.wf) {a : Nat} (ha : 16 ≤ a) : m.read a = none := by
  have hmem : a ∉ m.map Prod.fst := by rw [h]; simpa using ha
  exact Option.not_isSome_iff_eq_none.1 (mt (Memory.read_isSome a).1 hmem)

/-- INIT_TRANSPORT makes an idle block able, the clock running and its duty kept (40_transport.md R86, R95). -/
theorem exec_initTransport_able {s : State} (hi : s.idle) (hu : s.undisturbed = true) (hc : s.clk = true)
    (hk : s.clockStable = true) (u : BitVec 16) : ∃ v, exec (.initTransport u) s = .next v ∧ v.able := by
  have hk' : s.configure.clockStable = true := by simp [hk, hc]
  exact ⟨s.configure.finished, State.issue_initT hi hu, ⟨⟨rfl, hi.2⟩, rfl, hc, hu⟩, hk'⟩

/-- Settles O44: the step is the reset; after it the block is idle and the duty on the clock begins anew, and a clock that
starts at an idle block keeps it. -/
theorem resetFromAnyState : Obligations.ResetFromAnyState := by
  intro s ms hm
  refine ⟨({ s with moves := ms } : State).blockReset, step_event (e := .rst) (by simp) hm, rfl, rfl, rfl, rfl, rfl, rfl,
    rfl, rfl, rfl, rfl, rfl, rfl, rfl, rfl, rfl, fun hu u => ?_⟩
  exact exec_initTransport_able (s := ({ s with moves := ms } : State).blockReset.setClock true) ⟨rfl, rfl⟩ hu
    (by simp) (by simp) u

/-- Settles O59: each value is read off the state right after reset, whose block rests with nobody coming in. -/
theorem resetStateHoldsTheSpecsValues : Obligations.ResetStateHoldsTheSpecsValues := by
  intro p
  refine ⟨rfl, rfl, rfl, rfl, rfl, rfl, rfl, rfl, rfl, rfl, rfl, rfl, rfl, rfl, fun k => ?_, fun a ha => ?_,
    step_rest rfl rfl rfl⟩
  · exact (Memory.read_unspecified 0 k).trans (by rw [Nat.zero_add])
  · exact Memory.read_eq_none (Memory.wf_unspecified 0) ha

end Sys2Proof.Machine
end

section
/-! Nothing flows back from the receiver (20_memory.md R52): every part of a step, from a state whose receiver is another
one, does the same to everything but the receiver. -/

namespace Sys2Proof.Machine

/-- The same block with another receiver at its lines. -/
def State.withRcv (s : State) (r : Receiver) : State := { s with rcv := r }

/-- The same outcome with another receiver, where it is a next state. -/
def outcomeWithRcv (r : Receiver) : Host.Outcome State Fault Refusal → Host.Outcome State Fault Refusal
  | .next s => .next (s.withRcv r)
  | .fault f => .fault f
  | .refused q => .refused q

@[simp] theorem State.withRcv_busy (s : State) (r : Receiver) : (s.withRcv r).busy = s.busy := rfl
@[simp] theorem State.withRcv_txs (s : State) (r : Receiver) : (s.withRcv r).txs = s.txs := rfl
@[simp] theorem State.withRcv_clk (s : State) (r : Receiver) : (s.withRcv r).clk = s.clk := rfl
@[simp] theorem State.withRcv_moves (s : State) (r : Receiver) : (s.withRcv r).moves = s.moves := rfl
@[simp] theorem State.withRcv_ready (s : State) (r : Receiver) : (s.withRcv r).ready = s.ready := rfl
@[simp] theorem State.withRcv_admits (s : State) (r : Receiver) (o : Op) : (s.withRcv r).admits o = s.admits o := rfl
@[simp] theorem State.withRcv_currentMicro (s : State) (r : Receiver) :
    (s.withRcv r).currentMicro = s.currentMicro := rfl

theorem State.transmitterStep_withRcv (s : State) (r : Receiver) :
    ∃ q, (s.withRcv r).transmitterStep = s.transmitterStep.map (·.withRcv q) := by
  refine ⟨(s.withRcv r).bitCell.rcv, ?_⟩
  have h : (s.withRcv r).bitCell = s.bitCell.withRcv (s.withRcv r).bitCell.rcv := State.bitCell_rcv s r _
  unfold State.transmitterStep
  rw [State.withRcv_busy, State.withRcv_clk]
  split
  · exact congrArg some h
  · rfl

theorem State.sequencerStep_withRcv (s : State) (r : Receiver) :
    ∃ q, (s.withRcv r).sequencerStep = s.sequencerStep.map (·.withRcv q) := by
  unfold State.sequencerStep
  rw [State.withRcv_currentMicro]
  cases s.currentMicro with
  | none => exact ⟨r, rfl⟩
  | some m =>
    cases m with
    | cfg => exact ⟨(s.withRcv r).configure.rcv, rfl⟩
    | stb v => exact ⟨r.seeStrobe v, rfl⟩
    | tx v =>
      dsimp only
      rw [State.withRcv_busy, State.withRcv_txs]
      refine ⟨r, ?_⟩
      split
      · rfl
      · split
        · rfl
        · rfl

theorem State.blockStep_withRcv (s : State) (r : Receiver) :
    ∃ q, (s.withRcv r).blockStep = s.blockStep.map (·.withRcv q) := by
  obtain ⟨q, hq⟩ := State.transmitterStep_withRcv s r
  unfold State.blockStep
  rw [hq]
  cases s.transmitterStep with
  | some t => exact ⟨q, rfl⟩
  | none => exact State.sequencerStep_withRcv s r

theorem State.quietStep_withRcv (s : State) (r : Receiver) :
    ∃ q, (s.withRcv r).quietStep = s.quietStep.map (·.withRcv q) := by
  obtain ⟨q, hq⟩ := State.blockStep_withRcv s r
  refine ⟨q, ?_⟩
  unfold State.quietStep
  rw [State.withRcv_moves, hq]
  split
  · rfl
  · rw [Option.map_map, Option.map_map]
    rfl
  · rfl

theorem State.run_withRcv (k : Nat) (s : State) (r : Receiver) :
    ∃ q, (s.withRcv r).run k = (s.run k).withRcv q := by
  induction k generalizing s r with
  | zero => exact ⟨r, rfl⟩
  | succ k ih =>
    obtain ⟨q, hq⟩ := State.quietStep_withRcv s r
    cases h : s.quietStep with
    | none =>
      rw [h] at hq
      exact ⟨r, by rw [State.run_of_none h, State.run_of_none hq]⟩
    | some t =>
      rw [h] at hq
      rw [State.run_succ h, State.run_succ hq]
      exact ih t q

theorem State.issue_withRcv (s : State) (o : Op) (a : Nibble) (d : Byte) (r : Receiver) :
    ∃ q, (s.withRcv r).issue o a d = outcomeWithRcv q (s.issue o a d) := by
  obtain ⟨q, hq⟩ := State.run_withRcv opFuel (s.accept o a d) r
  unfold State.issue
  rw [State.withRcv_ready, State.withRcv_admits]
  split
  · split
    · exact ⟨q, congrArg Host.Outcome.next hq⟩
    · exact ⟨r, rfl⟩
  · exact ⟨r, rfl⟩

theorem exec_withRcv (i : Instr) (s : State) (r : Receiver) :
    ∃ q, exec i (s.withRcv r) = outcomeWithRcv q (exec i s) := by
  cases h : frameTarget i with
  | some x => exact ⟨r.commit x.1 x.2, by rw [exec_frame h, exec_frame h]; rfl⟩
  | none =>
    cases i with
    | initTransport u => exact State.issue_withRcv s .initT s.addrHold s.dataHold r
    | txByte u v => exact State.issue_withRcv s .txb s.addrHold v r
    | writeReg a d => exact State.issue_withRcv s .wr (maskAddress a) d r
    | initDisplay u v => exact State.issue_withRcv s .initD s.addrHold v r
    | _ => cases h

theorem State.happen_withRcv (s : State) (e : PlatformEvent) (r : Receiver) :
    ∃ q, (s.withRcv r).happen e = (s.happen e).withRcv q := by
  cases e with
  | offer w => exact ⟨r, rfl⟩
  | rst => exact ⟨r.seeStrobe s.params.strobeReset, rfl⟩
  | clock runs => exact ⟨r, rfl⟩
  | powerCycle => exact ⟨(s.withRcv r).receiverPowerCycle.rcv, rfl⟩

theorem State.proceed_withRcv (s : State) (r : Receiver) : ∃ q, (s.withRcv r).proceed = s.proceed.withRcv q := by
  obtain ⟨q, hq⟩ := State.quietStep_withRcv s r
  unfold State.proceed
  rw [hq, State.withRcv_moves]
  cases s.quietStep with
  | some t => exact ⟨q, rfl⟩
  | none =>
    cases s.moves with
    | nil => exact ⟨r, rfl⟩
    | cons m ms =>
      cases m with
      | present w => exact ⟨r, rfl⟩
      | after n e => exact State.happen_withRcv { s with moves := ms } e r

/-- What the command port takes is the same, whatever receiver stands at the lines. -/
theorem State.fetch_withRcv (s : State) (r : Receiver) :
    (s.withRcv r).fetch = s.fetch.map fun x => (x.1, x.2.withRcv r) := by
  unfold State.fetch
  rw [State.withRcv_ready, State.withRcv_moves]
  split
  · split
    · rfl
    · rfl
    · rfl
  · rfl

theorem step_withRcv (s : State) (r : Receiver) : ∃ q, step (s.withRcv r) = outcomeWithRcv q (step s) := by
  have hf := State.fetch_withRcv s r
  cases h : s.fetch with
  | some x =>
    rw [h] at hf
    rw [step_of_fetch hf, step_of_fetch h]
    exact exec_withRcv (decodeCommand x.1) x.2 r
  | none =>
    rw [h] at hf
    rw [step_of_no_fetch hf, step_of_no_fetch h]
    obtain ⟨q, hq⟩ := State.proceed_withRcv s r
    exact ⟨q, congrArg Host.Outcome.next hq⟩

/-- Settles O50: the step with another receiver has the same outcome, up to the receiver. -/
theorem nothingFlowsBackFromTheReceiver : Obligations.NothingFlowsBackFromTheReceiver := by
  intro s r
  obtain ⟨q, hq⟩ := step_withRcv s r
  refine ⟨fun t ht => ⟨q, ?_⟩, fun f hf => ?_⟩
  · rw [ht] at hq
    exact hq
  · rw [hf] at hq
    exact hq

end Sys2Proof.Machine
end

section
/-! Between rising edges of the strobe line the receiver only shifts and counts (20_memory.md R53, 43_register_frames.md
R140). -/

namespace Sys2Proof.Machine

/-- An atomic step that raises no low strobe line changes the shift register, the bit count and the remembered levels of
the receiver at most. -/
theorem State.blockStep_rcv_of_no_rise {s t : State} (h : s.blockStep = some t)
    (hr : ¬(s.currentMicro = some (.stb true) ∧ s.rcv.prevStrobe = false)) :
    ∃ f n x y, t.rcv = { s.rcv with rshift := f, nbits := n, prevStrobe := x, prevSclk := y } := by
  rcases State.blockStep_cases h with ⟨-, -, rfl⟩ | ⟨-, rfl⟩ | ⟨v, hm, rfl⟩ | ⟨v, -, -, -, rfl⟩ | ⟨v, -, -, -, rfl⟩
  · obtain ⟨_, _, f, n, _, -, hc⟩ := State.bitCell_spec s
    exact ⟨f, n, s.rcv.prevStrobe, s.params.cpol, by rw [hc]⟩
  · exact ⟨s.rcv.rshift, s.rcv.nbits, s.rcv.prevStrobe, s.params.cpol, if_pos rfl⟩
  · have hv : ¬(s.rcv.prevStrobe = false ∧ v = true) := fun ⟨hp, hv⟩ => hr ⟨hv ▸ hm, hp⟩
    obtain ⟨n, hn⟩ := Receiver.seeStrobe_of_no_rise hv
    exact ⟨s.rcv.rshift, n, v, s.rcv.prevSclk, hn⟩
  · exact ⟨_, _, _, _, rfl⟩
  · exact ⟨_, _, _, _, rfl⟩

/-- Settles O54: what shifts and counts is neither a cell nor `MODE`, and the display does not depend on it. -/
theorem cellsChangeOnlyAtTheRisingEdge : Obligations.CellsChangeOnlyAtTheRisingEdge := by
  intro s t h hr
  obtain ⟨f, n, x, y, hq⟩ := State.blockStep_rcv_of_no_rise h hr
  rw [hq]
  exact ⟨rfl, rfl, rfl, rfl, fun _ _ => rfl⟩

end Sys2Proof.Machine
end

section
/-! The operations of an able block in closed form: a byte and one register write or a list of them, the block idle
again (40_transport.md R91, 41_framer.md R97 to R101, 42_init_sequence.md R109). -/

namespace Sys2Proof.Machine

/-- A configured block admits every operation (30_encoding.md R73). -/
theorem State.admits_of_cfgDone {s : State} (h : s.cfgDone = true) (o : Op) : s.admits o = true := by
  simp [State.admits, h]

/-- An able block carries an operation out whole. -/
theorem State.able.issue {s : State} (h : s.able) {o : Op} (r : Nibble) (d : Byte) (ho : o ≠ .none)
    (hcost : ((micro s.params o r d).map MicroOp.cost).sum ≤ opFuel) :
    s.issue o r d = .next ((micro s.params o r d).foldl State.did s).finished := by
  obtain ⟨⟨hi, hcfg, hclk, hu⟩, -⟩ := h
  exact State.issue_completes hi (State.admits_of_cfgDone hcfg o) hclk hu (micro_ne_nil ho s.params r d)
    (Nat.lt_of_le_of_lt (micro_length_le ..) (by decide)) hcost

theorem exec_txByte_of_able {s : State} (h : s.able) (u v : Byte) :
    exec (.txByte u v) s = .next (s.sent v).finished := by
  rw [← State.did_tx h.2]
  exact h.issue (o := .txb) s.addrHold v (by decide) (show 10 ≤ opFuel by decide)

theorem exec_writeReg_of_able {s : State} (h : s.able) (a d : Byte) :
    exec (.writeReg a d) s = .next (s.written (maskAddress a) d).finished := by
  rw [← State.foldl_did_wr h.2]
  exact h.issue (o := .wr) (maskAddress a) d (by decide) ((wr_size ..).2.trans_le (by decide))

theorem exec_initDisplay_of_able {s : State} (h : s.able) (u i : Byte) :
    exec (.initDisplay u i) s = .next ((initTable i).foldl (fun t x => t.written x.1 x.2) s).finished := by
  rw [← State.foldl_did_writes (initTable i) h.2]
  exact h.issue (o := .initD) s.addrHold i (by decide) ((writes_size ..).2.trans_le (show 22 * 13 ≤ opFuel by decide))

/-- After a register write the block is able again. -/
theorem State.able.written {s : State} (h : s.able) (r : Nibble) (d : Byte) : (s.written r d).finished.able := by
  obtain ⟨⟨-, hcfg, hclk, hu⟩, hk⟩ := h
  exact ⟨⟨⟨rfl, rfl⟩, hcfg, hclk, hu⟩, hk⟩

/-- A list of register writes is seen by the receiver one after another. -/
theorem State.foldl_written_rcv (ws : List (Nibble × Byte)) (s : State) :
    (ws.foldl (fun t x => t.written x.1 x.2) s).rcv = s.rcv.afterWrites s.params ws := by
  induction ws generalizing s with
  | nil => rfl
  | cons x ws ih => exact ih (s.written x.1 x.2)

end Sys2Proof.Machine
end

section
/-! Register writes at the receiver: which cells they reach, and that none makes it refuse (20_memory.md R53, R54;
43_register_frames.md R120, R121). -/

namespace Sys2Proof.Machine

/-- A receiver that is not refused changes no cell but the addressed one, and none at address 0 (R121, R122). -/
theorem Receiver.commit_read_other {q : Receiver} (h : q.rxRefused = false) {r : Nibble} (d : Byte) {k : Nat}
    (hk : r = 0 ∨ k ≠ r.toNat) : (q.commit r d).rx.read k = q.rx.read k := by
  by_cases hr : r = 0
  · rw [hr, Receiver.commit_noop h]
  · have hk : k ≠ r.toNat := hk.resolve_left hr
    cases hw : q.woken with
    | true =>
      rw [Receiver.commit_rx_of_trusted ⟨hw, h⟩, if_neg hr]
      exact Memory.read_write_other q.rx d hk
    | false =>
      rw [Receiver.commit_untrusted h hw hr]
      exact Memory.read_write_other q.rx _ hk

/-- At the receiver a register write is a commit, or nothing but shifting and counting (41_framer.md R103). -/
theorem Receiver.afterWrite_cases (q : Receiver) (p : Params) (r : Nibble) (d : Byte) :
    ∃ c n, (c = q.commit r d ∨ c = q) ∧
      q.afterWrite p r d = { c with rshift := frameWord 0 r d, nbits := n, prevStrobe := p.variant.idleLevel,
                                    prevSclk := p.cpol } := by
  by_cases h : p.variant = .load ∧ q.prevStrobe = true
  · refine ⟨q, 0, .inr rfl, ?_⟩
    rw [Receiver.afterWrite_lost h.1 h.2, h.1]
    rfl
  · obtain ⟨n, hn⟩ := Receiver.afterWrite_commits (q := q) (p := p) (fun hv => by simpa [hv] using h) r d
    exact ⟨q.commit r d, n, .inl rfl, hn⟩

@[simp] theorem Receiver.afterWrite_rxRefused (q : Receiver) (p : Params) (r : Nibble) (d : Byte) :
    (q.afterWrite p r d).rxRefused = q.rxRefused := by
  obtain ⟨c, n, rfl | rfl, h⟩ := Receiver.afterWrite_cases q p r d
  · rw [h]
    exact Receiver.commit_rxRefused q r d
  · rw [h]

theorem Receiver.afterWrite_read_other {q : Receiver} (hq : q.rxRefused = false) (p : Params) {r : Nibble} (d : Byte)
    {k : Nat} (hk : r = 0 ∨ k ≠ r.toNat) : (q.afterWrite p r d).rx.read k = q.rx.read k := by
  obtain ⟨c, n, rfl | rfl, h⟩ := Receiver.afterWrite_cases q p r d
  · rw [h]
    exact Receiver.commit_read_other hq d hk
  · rw [h]

@[simp] theorem Receiver.afterWrite_prevStrobe (q : Receiver) (p : Params) (r : Nibble) (d : Byte) :
    (q.afterWrite p r d).prevStrobe = p.variant.idleLevel := by
  obtain ⟨c, n, -, h⟩ := Receiver.afterWrite_cases q p r d
  rw [h]

/-- With `LOAD` the write ends in a falling edge, which starts the count again (43_register_frames.md R119). -/
theorem Receiver.afterWrite_nbits_of_load (q : Receiver) {p : Params} (hv : p.variant = .load) (r : Nibble) (d : Byte) :
    (q.afterWrite p r d).nbits = 0 := by
  simp only [Receiver.afterWrite, hv]
  rw [Receiver.seeStrobe_fall (Receiver.seeStrobe_keeps _ true).1]

@[simp] theorem Receiver.afterWrites_rxRefused (ws : List (Nibble × Byte)) (q : Receiver) (p : Params) :
    (q.afterWrites p ws).rxRefused = q.rxRefused := by
  induction ws generalizing q with
  | nil => rfl
  | cons x ws ih => exact (ih (q.afterWrite p x.1 x.2)).trans (Receiver.afterWrite_rxRefused ..)

theorem Receiver.afterWrites_read_other {ws : List (Nibble × Byte)} {q : Receiver} (hq : q.rxRefused = false)
    (p : Params) {k : Nat} (hk : ∀ x ∈ ws, x.1 = 0 ∨ k ≠ x.1.toNat) :
    (q.afterWrites p ws).rx.read k = q.rx.read k := by
  induction ws generalizing q with
  | nil => rfl
  | cons x ws ih =>
    obtain ⟨hx, hws⟩ := List.forall_mem_cons.1 hk
    have hq' : (q.afterWrite p x.1 x.2).rxRefused = false := (Receiver.afterWrite_rxRefused ..).trans hq
    exact (ih hq' hws).trans (Receiver.afterWrite_read_other hq p x.2 hx)

/-- Where the strobe line is low as it is raised, a trusted receiver writes the addressed cell, but for address 0. -/
theorem Receiver.afterWrite_rx_of_trusted {q : Receiver} {p : Params} (hq : q.trusted)
    (hs : p.variant = .load → q.prevStrobe = false) (r : Nibble) (d : Byte) :
    (q.afterWrite p r d).rx = if r = 0 then q.rx else q.rx.write r.toNat d := by
  obtain ⟨n, h⟩ := Receiver.afterWrite_commits hs r d
  rw [h]
  exact Receiver.commit_rx_of_trusted hq r d

theorem Receiver.afterWrite_trusted {q : Receiver} {p : Params} (hq : q.trusted)
    (hs : p.variant = .load → q.prevStrobe = false) (r : Nibble) (d : Byte) : (q.afterWrite p r d).trusted := by
  obtain ⟨n, h⟩ := Receiver.afterWrite_commits hs r d
  rw [h]
  exact Receiver.commit_trusted hq r d

theorem Receiver.afterWrite_read_same {q : Receiver} {p : Params} (hq : q.trusted)
    (hs : p.variant = .load → q.prevStrobe = false) {r : Nibble} (hr : r ≠ 0) (d : Byte) :
    (q.afterWrite p r d).rx.read r.toNat = some d := by
  rw [Receiver.afterWrite_rx_of_trusted hq hs, if_neg hr]
  exact Memory.read_write_same q.rx r.toNat d

/-- The table of INIT_DISPLAY addresses the cells 0x1 to 0xC, and 0 for its NOOP (42_init_sequence.md R110, R116). -/
theorem initTable_addresses (i : Byte) {x : Nibble × Byte} (hx : x ∈ initTable i) :
    x.1 = 0 ∨ 1 ≤ x.1.toNat ∧ x.1.toNat ≤ 0xC := by
  have h : ∀ r ∈ (initTable i).map Prod.fst, r = 0 ∨ 1 ≤ r.toNat ∧ r.toNat ≤ 0xC := by
    rw [show (initTable i).map Prod.fst = (initTable 0).map Prod.fst from rfl]
    decide
  exact h x.1 (List.mem_map_of_mem hx)

/-- Settles O26: the write is seen by the receiver, whose strobe line is low as it is raised. -/
theorem writeRegReachesItsRegister : Obligations.WriteRegReachesItsRegister := by
  intro s a d h hq hs
  refine ⟨_, exec_writeReg_of_able h a d, Receiver.afterWrite_trusted hq hs _ d,
    fun ha => Receiver.afterWrite_read_same hq hs ha d, fun ha => ?_,
    fun k hk => Receiver.afterWrite_read_other hq.2 s.params d (.inr hk)⟩
  exact (Receiver.afterWrite_rx_of_trusted hq hs _ d).trans (if_pos ha)

/-- Settles O27: register writes reach the cells they address, and the other operations raise no strobe line. -/
theorem registerWritesTouchOnlyTheirCells : Obligations.RegisterWritesTouchOnlyTheirCells := by
  intro s h hq
  refine ⟨fun a d => ?_, fun u i => ?_, fun u v => ?_, fun u => ?_⟩
  · exact ⟨_, exec_writeReg_of_able h a d, fun k hk => Receiver.afterWrite_read_other hq s.params d (.inr hk)⟩
  · refine ⟨_, exec_initDisplay_of_able h u i, fun k hk => ?_⟩
    have hx : ∀ x ∈ initTable i, x.1 = 0 ∨ k ≠ x.1.toNat := fun x hx =>
      (initTable_addresses i hx).imp_right (by omega)
    exact (congrArg (fun q : Receiver => q.rx.read k) (State.foldl_written_rcv (initTable i) s)).trans
      (Receiver.afterWrites_read_other hq s.params hx)
  · exact ⟨_, exec_txByte_of_able h u v, rfl⟩
  · obtain ⟨⟨hi, -, -, hu⟩, -⟩ := h
    exact ⟨_, State.issue_initT hi hu, (Receiver.seeClock_keeps ..).1⟩

/-- Settles O29: after the first write the block is able, the receiver trusted and the strobe line idle, so the second
takes effect as well. -/
theorem laterWritesWin : Obligations.LaterWritesWin := by
  intro s a1 d1 a2 d2 h hq hs
  let q := s.rcv.afterWrite s.params (maskAddress a1) d1
  have hq' : q.trusted := Receiver.afterWrite_trusted hq hs _ d1
  have hs' : s.params.variant = .load → q.prevStrobe = false := fun hv => by simp [q, hv, Variant.idleLevel]
  have hexec : execAll [.writeReg a1 d1, .writeReg a2 d2] s =
      .next ((s.written (maskAddress a1) d1).finished.written (maskAddress a2) d2).finished := by
    simp only [execAll, exec_writeReg_of_able h, exec_writeReg_of_able (h.written _ _)]
  have hother {k : Nat} (hk : k ≠ (maskAddress a2).toNat) :
      (q.afterWrite s.params (maskAddress a2) d2).rx.read k = q.rx.read k :=
    Receiver.afterWrite_read_other hq'.2 s.params d2 (.inr hk)
  refine ⟨_, hexec, fun h2 => Receiver.afterWrite_read_same hq' hs' h2 d2, fun h1 hne => ?_, fun k hk1 hk2 => ?_⟩
  · exact (hother fun he => hne (BitVec.eq_of_toNat_eq he)).trans (Receiver.afterWrite_read_same hq hs h1 d1)
  · exact (hother hk2).trans (Receiver.afterWrite_read_other hq.2 s.params d1 (.inr hk1))

end Sys2Proof.Machine
end

section
/-! A register write up to its rising edge (20_memory.md R50, 41_framer.md R97): the run passes the state in which the
frame is due. -/

namespace Sys2Proof.Machine

/-- What micro-operations do to the transmitter and the receiver does not depend on the sequencer's registers. -/
theorem State.foldl_did_rest (ms : List MicroOp) (s : State) (o : Op) (u : BitVec 6) (x : Bool) (r : Nibble) (d : Byte) :
    (ms.foldl State.did { s with op := o, upc := u, txs := x, addrHold := r, dataHold := d }).busy =
        (ms.foldl State.did s).busy ∧
      (ms.foldl State.did { s with op := o, upc := u, txs := x, addrHold := r, dataHold := d }).rcv =
        (ms.foldl State.did s).rcv := by
  induction ms generalizing s with
  | nil => exact ⟨rfl, rfl⟩
  | cons m ms ih =>
    rw [List.foldl_cons, State.did_rest]
    exact ih (s.did m)

/-- The sequencer stands at the first of the entries that are left. -/
theorem State.currentMicro_of_drop {s : State} {m : MicroOp} {ms : List MicroOp}
    (h : s.microList.drop s.upc.toNat = m :: ms) : s.currentMicro = some m := by
  rw [State.currentMicro, ← List.head?_drop, h]
  rfl

/-- A micro-operation that is not the last is carried out, and the sequencer stands at the next one. -/
theorem State.run_micro_inside {s : State} {m : MicroOp} (hm : s.currentMicro = some m)
    (hlt : s.upc.toNat + 1 < s.microList.length) (hu : s.undisturbed = true) (hc : s.clk = true) (ht : s.txs = false)
    (hb : s.busy = false) (k : Nat) : s.run (k + m.cost) = ({ s.did m with upc := s.upc + 1 } : State).run k := by
  obtain ⟨hop, hupc, -, ha, hd, hp, -⟩ := State.did_keeps s m
  have hlast : (s.did m).atLast = false := by
    simp only [State.atLast, State.microList, hop, hupc, ha, hd, hp, beq_eq_false_iff_ne]
    exact Nat.ne_of_lt hlt
  rw [State.run_micro hm hu hc ht hb, State.advance_inside hlast, hupc]

/-- The micro-operations before an entry are carried out, and the sequencer stands at that entry. -/
theorem State.run_until {m : MicroOp} {rest : List MicroOp} (ms : List MicroOp) {s : State}
    (hd : s.microList.drop s.upc.toNat = ms ++ m :: rest) (hu : s.undisturbed = true) (hc : s.clk = true)
    (ht : s.txs = false) (hb : s.busy = false) :
    (s.run (ms.map MicroOp.cost).sum).currentMicro = some m ∧
      (s.run (ms.map MicroOp.cost).sum).busy = (ms.foldl State.did s).busy ∧
      (s.run (ms.map MicroOp.cost).sum).rcv = (ms.foldl State.did s).rcv := by
  induction ms generalizing s with
  | nil => exact ⟨State.currentMicro_of_drop hd, rfl, rfl⟩
  | cons m' ms ih =>
    obtain ⟨hop, -, htx, ha, hdh, hp, hclk, hmv, -, hbusy⟩ := State.did_keeps s m'
    have hm : s.currentMicro = some m' := State.currentMicro_of_drop hd
    have hlt : s.upc.toNat + 1 < s.microList.length := by
      have hlen := congrArg List.length hd
      simp only [List.length_drop, List.length_append, List.length_cons] at hlen
      omega
    let t : State := { s.did m' with upc := s.upc + 1 }
    have htail : t.microList.drop t.upc.toNat = ms ++ m :: rest := by
      have hml : t.microList = s.microList := by simp only [State.microList, t, hop, ha, hdh, hp]
      rw [hml, State.upc_succ_toNat (State.upc_lt_of_currentMicro hm), ← List.drop_drop, hd]
      rfl
    obtain ⟨hb', hr'⟩ := State.foldl_did_rest ms (s.did m') t.op t.upc t.txs t.addrHold t.dataHold
    obtain ⟨hat, hbu, hrcv⟩ := ih (s := t) htail ((State.undisturbed_congr hmv).trans hu) (hclk.trans hc)
      (htx.trans ht) (hbusy hb)
    rw [List.map_cons, List.sum_cons, Nat.add_comm, State.run_micro_inside hm hlt hu hc ht hb]
    exact ⟨hat, hbu.trans hb', hrcv.trans hr'⟩

/-- The micro-operations of a register write before it raises the strobe line (10_state.md R21). -/
def wrBeforeRise (p : Params) (r : Nibble) (d : Byte) : List MicroOp :=
  match p.variant with
  | .cs => [.stb false, .tx (addressByte r), .tx d]
  | .load => [.tx (addressByte r), .tx d]

theorem wr_eq_append (p : Params) (r : Nibble) (d : Byte) :
    ∃ rest, wr p r d = wrBeforeRise p r d ++ .stb true :: rest := by
  unfold wr wrBeforeRise
  cases p.variant with
  | cs => exact ⟨[], rfl⟩
  | load => exact ⟨[.stb false], rfl⟩

theorem wrBeforeRise_cost (p : Params) (r : Nibble) (d : Byte) :
    ((wrBeforeRise p r d).map MicroOp.cost).sum ≤ opFuel := by
  unfold wrBeforeRise
  cases p.variant with
  | cs => exact (show 21 ≤ opFuel by decide)
  | load => exact (show 20 ≤ opFuel by decide)

/-- The two bytes of a register write, the strobe line low and nothing counted before, bring its frame and 16 bits. -/
theorem State.foldl_did_bytes {s : State} (hk : s.clockStable = true) (hs : s.rcv.prevStrobe = false)
    (hn : s.rcv.nbits = 0) (r : Nibble) (d : Byte) :
    ([.tx (addressByte r), .tx d].foldl State.did s).busy = false ∧
      ([.tx (addressByte r), .tx d].foldl State.did s).rcv =
        { s.rcv with rshift := frameWord 0 r d, nbits := 16, prevStrobe := false, prevSclk := s.params.cpol } := by
  have h : [.tx (addressByte r), .tx d].foldl State.did s = (s.sent (addressByte r)).sent d := by
    rw [List.foldl_cons, List.foldl_cons, List.foldl_nil, State.did_tx hk, State.did_tx (s := s.sent _) hk]
  rw [h]
  exact ⟨rfl, by simp only [State.sent, Receiver.shiftedIn, shiftedIn_frame, hn, hs]⟩

/-- From the idle strobe level, and with nothing counted for `LOAD`, a register write brings exactly its 16 bits into
the receiver before it raises the strobe line. -/
theorem State.foldl_did_wrBeforeRise {s : State} (hk : s.clockStable = true)
    (hs : s.rcv.prevStrobe = s.params.variant.idleLevel) (hn : s.params.variant = .load → s.rcv.nbits = 0)
    (r : Nibble) (d : Byte) :
    ((wrBeforeRise s.params r d).foldl State.did s).busy = false ∧
      ((wrBeforeRise s.params r d).foldl State.did s).rcv =
        { s.rcv with rshift := frameWord 0 r d, nbits := 16, prevStrobe := false, prevSclk := s.params.cpol } := by
  unfold wrBeforeRise
  cases hv : s.params.variant with
  | cs =>
    have hf : (s.driveStrobe false).rcv = { s.rcv with prevStrobe := false, nbits := 0 } :=
      Receiver.seeStrobe_fall (hs.trans (congrArg Variant.idleLevel hv))
    have h := State.foldl_did_bytes (s := s.driveStrobe false) hk (by rw [hf]) (by rw [hf]) r d
    rwa [hf] at h
  | load => exact State.foldl_did_bytes hk (hs.trans (congrArg Variant.idleLevel hv)) (hn hv) r d

/-- From the idle strobe level the run of a register write passes the state in which its frame is due, after 16 bits. -/
theorem State.frameDue_of_able {s : State} (h : s.able) (hs : s.rcv.prevStrobe = s.params.variant.idleLevel)
    (hn : s.params.variant = .load → s.rcv.nbits = 0) (a d : Byte) :
    ∃ n ≤ opFuel, ((s.accept .wr (maskAddress a) d).run n).frameDue = some (frameOf a d) ∧
      ((s.accept .wr (maskAddress a) d).run n).rcv.nbits = 16 := by
  obtain ⟨⟨⟨-, hb⟩, -, hclk, hu⟩, hk⟩ := h
  let t := s.accept .wr (maskAddress a) d
  obtain ⟨rest, hwr⟩ := wr_eq_append t.params (maskAddress a) d
  obtain ⟨hm, hbusy, hrcv⟩ := State.run_until (s := t) _ hwr hu hclk rfl hb
  obtain ⟨hfb, hfr⟩ := State.foldl_did_wrBeforeRise (s := t) hk hs hn (maskAddress a) d
  refine ⟨_, wrBeforeRise_cost t.params (maskAddress a) d, ?_, by rw [hrcv, hfr]⟩
  rw [State.frameDue, hm, hbusy, hrcv, hfb, hfr]
  exact if_pos ⟨rfl, rfl, rfl, Nat.le_refl 16⟩

/-- An able block accepts and runs. -/
theorem State.able.issue_eq_run {s : State} (h : s.able) (o : Op) (r : Nibble) (d : Byte) :
    s.issue o r d = .next ((s.accept o r d).run opFuel) := by
  obtain ⟨⟨hi, hcfg, -, -⟩, -⟩ := h
  rcases State.issue_cases s o r d with ⟨ho, -⟩ | ⟨-, ha, -⟩ | ⟨-, -, hr⟩
  · exact absurd hi.1 ho
  · exact absurd ((State.admits_of_cfgDone hcfg o).symm.trans ha) (by decide)
  · exact hr

/-- Settles O52: the run is cut where the frame is due; no register write, in whatever state of the wire, makes the
receiver refuse, since a rising edge comes after its 16 bits. -/
theorem registerWritesAreWellFormedFrames : Obligations.RegisterWritesAreWellFormedFrames := by
  intro s h
  refine ⟨fun a d hs hn => ?_, fun a d => ?_, fun u i => ?_⟩
  · obtain ⟨n, hle, hdue, hbits⟩ := State.frameDue_of_able h hs hn a d
    have hrun : (s.accept .wr (maskAddress a) d).run opFuel = (s.written (maskAddress a) d).finished :=
      Host.Outcome.next.inj ((State.able.issue_eq_run h .wr _ d).symm.trans (exec_writeReg_of_able h a d))
    refine ⟨n, _, _, hle, rfl, hdue, hbits, exec_writeReg_of_able h a d, ?_, Receiver.afterWrite_prevStrobe ..,
      fun hv => Receiver.afterWrite_nbits_of_load s.rcv hv _ d⟩
    rw [← State.run_add, Nat.add_sub_cancel' hle, hrun]
  · exact ⟨_, exec_writeReg_of_able h a d, Receiver.afterWrite_rxRefused ..⟩
  · exact ⟨_, exec_initDisplay_of_able h u i,
      (congrArg Receiver.rxRefused (State.foldl_written_rcv (initTable i) s)).trans (Receiver.afterWrites_rxRefused ..)⟩

end Sys2Proof.Machine
end

section
/-! The two decoders, operation code by operation code and address by address: they undo the encoder, follow the rows of
the opcode table, and read nothing but the fields their format has (30_encoding.md R65, R73, R74, R77, R78, R81). -/

namespace Sys2Proof

open Machine

/-! One equation per operation code (R73). -/

theorem decodeCommand_of_op_zero {w : Command} (h : commandOp w = 0) :
    decodeCommand w = .initTransport (w.extractLsb' 0 16) := by
  simp only [decodeCommand, h]
  rfl

theorem decodeCommand_of_op_one {w : Command} (h : commandOp w = 1) :
    decodeCommand w = .txByte (commandA w) (commandD w) := by
  simp only [decodeCommand, h]
  rfl

theorem decodeCommand_of_op_two {w : Command} (h : commandOp w = 2) :
    decodeCommand w = .writeReg (commandA w) (commandD w) := by
  simp only [decodeCommand, h]
  rfl

theorem decodeCommand_of_op_three {w : Command} (h : commandOp w = 3) :
    decodeCommand w = .initDisplay (commandA w) (commandD w) := by
  simp only [decodeCommand, h]
  rfl

/-! Decoder and encoder. -/

/-- The sixteen operand bits of an assembled word are its two operand bytes (R73). -/
theorem commandWord_operands (op : BitVec 2) (u : BitVec 16) :
    (commandWord op (u.extractLsb' 8 8) (u.extractLsb' 0 8)).extractLsb' 0 16 = u := by
  have hu : u.extractLsb' 8 8 ++ u.extractLsb' 0 8 = u := by
    rw [BitVec.extractLsb'_append_extractLsb'_eq_extractLsb' (by rfl)]
    exact BitVec.extractLsb'_eq_self
  calc (commandWord op (u.extractLsb' 8 8) (u.extractLsb' 0 8)).extractLsb' 0 16
      = (op ++ (u.extractLsb' 8 8 ++ u.extractLsb' 0 8)).extractLsb' 0 16 := by
        rw [commandWord, BitVec.append_assoc]
        rfl
    _ = u := by rw [BitVec.extractLsb'_append_eq_right, hu]

theorem decode_encode (i : Instr) : decode (encode i) = i := by
  cases i with
  | initTransport u =>
    exact (decodeCommand_of_op_zero (commandOp_commandWord ..)).trans (by rw [commandWord_operands])
  | txByte u v =>
    exact (decodeCommand_of_op_one (commandOp_commandWord ..)).trans (by rw [commandA_commandWord, commandD_commandWord])
  | writeReg a d =>
    exact (decodeCommand_of_op_two (commandOp_commandWord ..)).trans (by rw [commandA_commandWord, commandD_commandWord])
  | initDisplay u v =>
    exact (decodeCommand_of_op_three (commandOp_commandWord ..)).trans
      (by rw [commandA_commandWord, commandD_commandWord])
  | _ =>
    simp only [encode, decode, decodeFrame, frameZ_frameWord, frameR_frameWord, frameD_frameWord]
    rfl

theorem encode_decodeCommand (w : Command) : encode (decodeCommand w) = .command w := by
  have hw := commandWord_fields w
  rcases opcode_cases (commandOp w) with h | h | h | h <;> rw [h] at hw
  · rw [decodeCommand_of_op_zero h, encode, BitVec.extractLsb'_extractLsb'_of_le (by decide),
      BitVec.extractLsb'_extractLsb'_of_le (by decide)]
    exact congrArg Encoded.command hw
  · rw [decodeCommand_of_op_one h, encode, hw]
  · rw [decodeCommand_of_op_two h, encode, hw]
  · rw [decodeCommand_of_op_three h, encode, hw]

theorem encode_decodeFrame (f : Frame) : encode (decodeFrame f) = .frame f := by
  suffices hf : encode (decodeFrame f) = .frame (frameWord (frameZ f) (frameR f) (frameD f)) by
    rw [hf, frameWord_fields]
  rcases nibble_cases (frameR f) with h | h | h | h | h | h | h | h | h | h | h | h | h | h | h | h <;>
    rw [h] <;> simp only [decodeFrame, h] <;> rfl

/-- Settles O2: both decoders choose the row by the field the encoder fills, and a word is made of its fields. -/
theorem decodeAndEncodeAgree : Obligations.DecodeAndEncodeAgree := by
  refine ⟨decode_encode, fun e => ?_⟩
  cases e with
  | command w => exact encode_decodeCommand w
  | frame f => exact encode_decodeFrame f

/-! The opcode table. -/

/-- Masking a field of a word leaves that field at its place. -/
theorem toNat_and_fieldMask {n : Nat} (x : BitVec n) (start len : Nat) :
    x.toNat &&& (2 ^ len - 1) <<< start = (x.extractLsb' start len).toNat <<< start := by
  apply Nat.eq_of_testBit_eq
  intro i
  rw [Nat.testBit_and, Nat.testBit_shiftLeft, Nat.testBit_shiftLeft, Nat.testBit_two_pow_sub_one, BitVec.testBit_toNat,
    BitVec.testBit_toNat, BitVec.getLsbD_extractLsb']
  by_cases hi : start ≤ i
  · rw [Nat.add_sub_cancel' hi, Bool.and_left_comm, Bool.and_comm (x.getLsbD i)]
  · simp [hi]

/-- A row of the command port matches by `cmd[17:16]` alone (R73). -/
theorem commandRow_hits {row : OpcodeRow} (h : row ∈ commandRows) (w : Command) :
    row.hits w.toNat = ((commandOp w).toNat <<< 16 == row.pattern) := by
  have hmask : ∀ row ∈ commandRows, row.mask = (2 ^ 2 - 1) <<< 16 := by decide
  rw [OpcodeRow.hits, hmask row h, toNat_and_fieldMask]
  rfl

/-- A row of the wire matches by `frame[11:8]` alone (R77, R78). -/
theorem frameRow_hits {row : OpcodeRow} (h : row ∈ frameRows) (f : Frame) :
    row.hits f.toNat = ((frameR f).toNat <<< 8 == row.pattern) := by
  have hmask : ∀ row ∈ frameRows, row.mask = (2 ^ 4 - 1) <<< 8 := by decide
  rw [OpcodeRow.hits, hmask row h, toNat_and_fieldMask]
  rfl

theorem commandRows_filter_hits (w : Command) :
    (commandRows.filter fun row => row.hits w.toNat).map OpcodeRow.mnemonic = [(decodeCommand w).mnemonic] := by
  rw [List.filter_congr fun row h => commandRow_hits h w]
  rcases opcode_cases (commandOp w) with h | h | h | h
  · rw [decodeCommand_of_op_zero h, h]
    rfl
  · rw [decodeCommand_of_op_one h, h]
    rfl
  · rw [decodeCommand_of_op_two h, h]
    rfl
  · rw [decodeCommand_of_op_three h, h]
    rfl

theorem frameRows_filter_hits (f : Frame) :
    (frameRows.filter fun row => row.hits f.toNat).map OpcodeRow.mnemonic = [(decodeFrame f).mnemonic] := by
  rw [List.filter_congr fun row h => frameRow_hits h f]
  rcases nibble_cases (frameR f) with h | h | h | h | h | h | h | h | h | h | h | h | h | h | h | h <;>
    rw [h] <;> simp only [decodeFrame, h] <;> rfl

/-- Settles O3: the rows of a format differ in the field their mask leaves, which is the one the decoder reads. -/
theorem decoderFollowsTheOpcodeTable : Obligations.DecoderFollowsTheOpcodeTable := by
  intro e
  cases e with
  | command w => exact commandRows_filter_hits w
  | frame f => exact frameRows_filter_hits f

/-! The widths (R81). -/

theorem encodedOfBits_frame (f : Frame) : encodedOfBits 16 f.toNat = .ok (.frame f) := by
  rw [encodedOfBits, if_pos rfl, if_pos f.isLt, BitVec.ofNat_toNat, BitVec.setWidth_eq]

theorem encodedOfBits_command {nbits : Nat} (h : nbits = 18 ∨ nbits = 24) (w : Command) :
    encodedOfBits nbits w.toNat = .ok (.command w) := by
  rw [encodedOfBits, if_neg (by omega), if_pos h, if_pos w.isLt, BitVec.ofNat_toNat, BitVec.setWidth_eq]

theorem encodedOfBits_isOk_iff (nbits w : Nat) :
    (encodedOfBits nbits w).isOk = true ↔
      (nbits = 16 ∧ w < 2 ^ 16) ∨ ((nbits = 18 ∨ nbits = 24) ∧ w < 2 ^ 18) := by
  unfold encodedOfBits
  split_ifs with hf hw hc hw
  · exact iff_of_true rfl (.inl ⟨hf, hw⟩)
  · exact iff_of_false Bool.false_ne_true (by omega)
  · exact iff_of_true rfl (.inr ⟨hc, hw⟩)
  · exact iff_of_false Bool.false_ne_true (by omega)
  · exact iff_of_false Bool.false_ne_true (by omega)

theorem decodeTableWord_of_ok {nbits w : Nat} {e : Encoded} (h : encodedOfBits nbits w = .ok e) :
    decodeTableWord nbits w = some (decode e) := by
  rw [decodeTableWord, decodeBits, h]

/-- Bits that are of a format decode: no word is illegal (R73, R78). -/
theorem decodeTableWord_isSome (nbits w : Nat) :
    (decodeTableWord nbits w).isSome = (encodedOfBits nbits w).isOk := by
  rw [decodeTableWord, decodeBits]
  cases encodedOfBits nbits w <;> rfl

/-- Settles O4: the bits are a word exactly in the two formats, and every word decodes. -/
theorem onlyTheTwoFormatsDecode : Obligations.OnlyTheTwoFormatsDecode := by
  refine ⟨fun f => ?_, fun w => ⟨?_, ?_⟩, fun nbits w => ?_⟩
  · exact decodeTableWord_of_ok (encodedOfBits_frame f)
  · exact decodeTableWord_of_ok (encodedOfBits_command (.inr rfl) w)
  · exact decodeTableWord_of_ok (encodedOfBits_command (.inl rfl) w)
  · rw [decodeTableWord_isSome]
    exact encodedOfBits_isOk_iff nbits w

/-- Settles O1: the words of the test vectors are closed, and the decoder runs on them. -/
theorem knownWordsDecode : Obligations.KnownWordsDecode := by
  unfold Obligations.KnownWordsDecode
  decide

/-! The unused bits (R74). -/

/-- What WRITE_REG reads of its word is in `cmd[11:0]`. -/
theorem maskAddress_commandA (w : Command) : maskAddress (commandA w) = (w.extractLsb' 0 12).extractLsb' 8 4 := by
  rw [maskAddress, commandA, BitVec.extractLsb'_extractLsb'_of_le (by decide),
    ← BitVec.setWidth_eq_extractLsb' (by decide), BitVec.setWidth_extractLsb'_of_le (by decide)]

theorem commandD_eq_extract_low (w : Command) : commandD w = (w.extractLsb' 0 12).extractLsb' 0 8 := by
  rw [commandD, BitVec.extractLsb'_extractLsb'_of_le (by decide)]

/-- Settles O39: the meanings of INIT_TRANSPORT, TX_BYTE and INIT_DISPLAY drop the unused operand, and WRITE_REG masks
its address. -/
theorem unusedCommandBitsAreIgnored : Obligations.UnusedCommandBitsAreIgnored := by
  intro w v s hop
  refine ⟨fun h => ?_, fun h hd => ?_, fun h hlow => ?_⟩
  · rw [decodeCommand_of_op_zero h, decodeCommand_of_op_zero (hop ▸ h)]
    rfl
  · rcases h with h | h
    · rw [decodeCommand_of_op_one h, decodeCommand_of_op_one (hop ▸ h), hd]
      rfl
    · rw [decodeCommand_of_op_three h, decodeCommand_of_op_three (hop ▸ h), hd]
      rfl
  · rw [decodeCommand_of_op_two h, decodeCommand_of_op_two (hop ▸ h)]
    have ha : maskAddress (commandA w) = maskAddress (commandA v) := by
      rw [maskAddress_commandA, maskAddress_commandA, hlow]
    have hd : commandD w = commandD v := by
      rw [commandD_eq_extract_low, commandD_eq_extract_low, hlow]
    show s.issue .wr (maskAddress (commandA w)) (commandD w) = s.issue .wr (maskAddress (commandA v)) (commandD v)
    rw [ha, hd]

end Sys2Proof
end

section
/-! Operand assembly in numbers: the address mask, the frame and its two bytes, and the symbolic addresses
(30_encoding.md R66 to R71, R83). -/

namespace Sys2Proof.Machine

theorem maskAddress_toNat (a : Byte) : (maskAddress a).toNat = a.toNat % 16 := by
  rw [maskAddress, BitVec.extractLsb'_toNat, Nat.shiftRight_zero]

@[simp] theorem addressByte_toNat (r : Nibble) : (addressByte r).toNat = r.toNat :=
  BitVec.toNat_setWidth_of_le (by decide)

theorem toNat_and_0x0F (a : Byte) : (a &&& 0x0F).toNat = a.toNat % 16 :=
  (BitVec.toNat_and a 0x0F).trans (Nat.and_two_pow_sub_one_eq_mod a.toNat 4)

theorem maskAddress_and_0x0F (a : Byte) : maskAddress (a &&& 0x0F) = maskAddress a := by
  apply BitVec.eq_of_toNat_eq
  rw [maskAddress_toNat, maskAddress_toNat, toNat_and_0x0F, Nat.mod_mod]

theorem maskAddress_add_mul_16 (a k : Byte) : maskAddress (a + 16 * k) = maskAddress a := by
  apply BitVec.eq_of_toNat_eq
  rw [maskAddress_toNat, maskAddress_toNat, BitVec.toNat_add, BitVec.toNat_mul,
    show (16 : Byte).toNat = 16 from rfl]
  omega

@[simp] theorem addressByte_maskAddress (a : Byte) : addressByte (maskAddress a) = a &&& 0x0F := by
  apply BitVec.eq_of_toNat_eq
  rw [addressByte_toNat, maskAddress_toNat, toNat_and_0x0F]

/-- Settles O9: the mask is the remainder by 16. -/
theorem addressMaskIsIdempotentAndPeriodic : Obligations.AddressMaskIsIdempotentAndPeriodic := fun a k =>
  ⟨maskAddress_and_0x0F a, maskAddress_add_mul_16 a k, addressByte_maskAddress a⟩

/-- The frame of a register write has a zero `Z` field (R66, R78). -/
theorem frameOf_eq_frameWord (a d : Byte) : frameOf a d = frameWord 0 (maskAddress a) d := rfl

@[simp] theorem frameZ_frameOf (a d : Byte) : frameZ (frameOf a d) = 0 := frameZ_frameWord ..

@[simp] theorem frameR_frameOf (a d : Byte) : frameR (frameOf a d) = maskAddress a := frameR_frameWord ..

@[simp] theorem frameD_frameOf (a d : Byte) : frameD (frameOf a d) = d := frameD_frameWord ..

/-- The first byte of a frame on the wire is the address with a zero upper nibble (R67, R69). -/
theorem extractLsb'_frameWord_high (r : Nibble) (d : Byte) : (frameWord 0 r d).extractLsb' 8 8 = addressByte r :=
  BitVec.extractLsb'_append_eq_left.trans (BitVec.setWidth_eq_append (by decide)).symm

theorem frameOf_toNat (a d : Byte) : (frameOf a d).toNat = ((a.toNat &&& 0x0F) <<< 8) ||| d.toNat := by
  have hmask : a.toNat &&& 0x0F = (maskAddress a).toNat :=
    (Nat.and_two_pow_sub_one_eq_mod a.toNat 4).trans (maskAddress_toNat a).symm
  rw [frameOf, BitVec.toNat_append, BitVec.toNat_append, hmask]
  simp

/-- Settles O6: the fields of the frame and its number. -/
theorem frameAssembly : Obligations.FrameAssembly :=
  ⟨fun a d => ⟨frameZ_frameOf a d, frameR_frameOf a d, frameD_frameOf a d, frameOf_toNat a d⟩, by decide⟩

/-- Settles O5: one value per name, `DIGITn` for each n (R83). -/
theorem symbolicNamesStandForTheirAddresses : Obligations.SymbolicNamesStandForTheirAddresses := by
  unfold Obligations.SymbolicNamesStandForTheirAddresses
  decide

end Sys2Proof.Machine
end

section
/-! What is sampled of a trace at its leading edges, piece by piece: a bit cell, a byte, a register write
(00_scope.md R13, 30_encoding.md R67, R68, 20_memory.md R47, R48). -/

namespace Sys2Proof.Machine

theorem sampledBits_bitTrace_append (cpol m b : Level) (es : List Event) :
    sampledBits cpol m (bitTrace cpol b ++ es) = b :: sampledBits cpol b es := by
  simp [bitTrace, sampledBits]

theorem sampledBits_byteTrace_append (cpol m : Level) (v : Byte) (es : List Event) :
    sampledBits cpol m (byteTrace cpol v ++ es) =
      [7, 6, 5, 4, 3, 2, 1, 0].map (fun k => v.getLsbD k) ++ sampledBits cpol (v.getLsbD 0) es := by
  simp only [byteTrace, List.flatMap_cons, List.flatMap_nil, List.append_assoc, sampledBits_bitTrace_append]
  rfl

/-- The sixteen cells of a register write, whatever comes after it and wherever the strobe events stand. -/
theorem sampledBits_wrTrace_append (p : Params) (m : Level) (r : Nibble) (d : Byte) (es : List Event) :
    sampledBits p.cpol m (wrTrace p r d ++ es) =
      [7, 6, 5, 4, 3, 2, 1, 0].map (fun k => (addressByte r).getLsbD k) ++
        ([7, 6, 5, 4, 3, 2, 1, 0].map (fun k => d.getLsbD k) ++ sampledBits p.cpol (d.getLsbD 0) es) := by
  unfold wrTrace
  cases p.variant with
  | cs =>
    simp only [List.append_assoc, List.cons_append, List.nil_append, sampledBits, sampledBits_byteTrace_append]
  | load =>
    simp only [List.append_assoc, List.cons_append, List.nil_append, sampledBits, sampledBits_byteTrace_append]

theorem sampledBits_wrTrace (p : Params) (m : Level) (r : Nibble) (d : Byte) :
    sampledBits p.cpol m (wrTrace p r d) =
      [7, 6, 5, 4, 3, 2, 1, 0].map (fun k => (addressByte r).getLsbD k) ++
        [7, 6, 5, 4, 3, 2, 1, 0].map (fun k => d.getLsbD k) := by
  have h := sampledBits_wrTrace_append p m r d []
  rwa [List.append_nil, sampledBits, List.append_nil] at h

/-- A frame in time order is its address byte and its data byte, each most significant bit first (R68). -/
theorem frameBits_frameWord (r : Nibble) (d : Byte) :
    frameBits (frameWord 0 r d) =
      [7, 6, 5, 4, 3, 2, 1, 0].map (fun k => (addressByte r).getLsbD k) ++
        [7, 6, 5, 4, 3, 2, 1, 0].map (fun k => d.getLsbD k) := by
  simp [frameBits, getLsbD_frameWord, addressByte]

/-- Settles O7: the trace of a register write carries the two bytes of its frame. -/
theorem writeRegSendsExactlyTwoBytes : Obligations.WriteRegSendsExactlyTwoBytes := by
  intro s a d h
  refine ⟨(extractLsb'_frameWord_high (maskAddress a) d).trans (addressByte_maskAddress a), frameD_frameOf a d, _, _,
    exec_writeReg_of_able h a d, rfl, ?_⟩
  rw [sampledBits_wrTrace, addressByte_maskAddress]

/-- Settles O8: the two bytes of the trace are the frame in time order. -/
theorem writeRegSendsTheFrameBits : Obligations.WriteRegSendsTheFrameBits := by
  intro s a d h
  refine ⟨_, _, exec_writeReg_of_able h a d, rfl, ?_⟩
  rw [sampledBits_wrTrace, frameOf_eq_frameWord, frameBits_frameWord]

end Sys2Proof.Machine
end

section
/-! The two operations of the transmitter and its bit cell (40_transport.md R85 to R91): what INIT_TRANSPORT and TX_BYTE
leave of an idle block, and a bit cell with the duty on the clock kept or broken. -/

namespace Sys2Proof.Machine

/-- A clock event at the idle level is no leading edge: the receiver only remembers the level (43_register_frames.md R118). -/
theorem Receiver.seeClock_idle (r : Receiver) (cpol m : Level) :
    r.seeClock cpol m cpol = { r with prevSclk := cpol } := if_pos rfl

/-- The `CFG` micro-operation in full (40_transport.md R86): the legal record, both lines driven, and no edge at the
receiver. -/
theorem State.configure_eq (s : State) :
    s.configure = { s with cfg := TransportCfg.legal s.params, cfgDone := true, clockStable := s.dutyAfterCfg,
                           sclk := s.params.cpol, mosi := false,
                           trace := s.trace ++ [.clock s.params.cpol, .data false],
                           rcv := { s.rcv with prevSclk := s.params.cpol } } := by
  simp only [State.configure, State.driveSclk, State.driveMosi, State.emit, Receiver.see, Receiver.seeClock_idle,
    List.append_assoc, List.cons_append, List.nil_append]

/-- A bit cell of free shape draws one free wave (70_reset_and_hazards.md R172, log entry 24). -/
theorem State.bitCell_free_of_unstable {s : State} (hs : s.clockStable = false) : s.bitCell.free = s.free + 1 := by
  simp [State.bitCell, State.cellLines, hs]

/-- Settles O14: an idle block runs the one micro-operation of INIT_TRANSPORT and is idle again. -/
theorem initTransportCompletes : Obligations.InitTransportCompletes := by
  intro s u hi hu
  have hexec : exec (.initTransport u) s = .next s.configure.finished := State.issue_initT hi hu
  rw [hexec, State.configure_eq]
  rfl

/-- Settles O15: an able block sends the byte and is idle again. -/
theorem txByteCompletes : Obligations.TxByteCompletes :=
  fun _ u v h => exec_txByte_of_able h u v

/-- Settles O41: the bit cell of defined shape, the one of free shape, and the clock that starts or stops. -/
theorem oneBitCell : Obligations.OneBitCell := by
  refine ⟨fun s hs => ?_, fun s hs => ?_, fun s runs ms hm => ?_⟩
  · exact State.bitCell_eq hs
  · obtain ⟨m, es, f, n, k, he, h⟩ := State.bitCell_spec s
    have hk : k = s.free + 1 := (congrArg State.free h).symm.trans (State.bitCell_free_of_unstable hs)
    exact ⟨m, es, f, n, he, by rw [h, hk]; rfl⟩
  · exact step_event (e := .clock runs) (by simp) hm

end Sys2Proof.Machine
end

section
/-! The register write on the wire (41_framer.md R97 to R105): its state and trace in closed form, the same from every
address with the same four low bits. -/

namespace Sys2Proof.Machine

@[simp] theorem byteTrace_length (cpol : Level) (v : Byte) : (byteTrace cpol v).length = 24 := rfl

@[simp] theorem wrTrace_length (p : Params) (r : Nibble) (d : Byte) : (wrTrace p r d).length = 50 := by
  unfold wrTrace
  cases p.variant <;> simp

/-- The chip-select variant frames the two bytes between its strobe events (R99). -/
theorem wrTrace_of_cs {p : Params} (h : p.variant = .cs) (r : Nibble) (d : Byte) :
    wrTrace p r d =
      [.strobe false] ++ byteTrace p.cpol (addressByte r) ++ byteTrace p.cpol d ++ [.strobe true] := by
  rw [wrTrace, h]

/-- The load-pulse variant puts its pulse after the two bytes (R100). -/
theorem wrTrace_of_load {p : Params} (h : p.variant = .load) (r : Nibble) (d : Byte) :
    wrTrace p r d =
      byteTrace p.cpol (addressByte r) ++ byteTrace p.cpol d ++ [.strobe true, .strobe false] := by
  rw [wrTrace, h]

/-- A register write appends its fifty events and leaves the strobe line idle (R101, R102). -/
theorem exec_writeReg_trace {s : State} (h : s.able) (a d : Byte) :
    ∃ t, exec (.writeReg a d) s = .next t ∧ t.trace = s.trace ++ wrTrace s.params (maskAddress a) d ∧
      t.trace.length = s.trace.length + 50 ∧ t.strobe = s.params.variant.idleLevel := by
  refine ⟨_, exec_writeReg_of_able h a d, rfl, ?_, rfl⟩
  exact List.length_append.trans (congrArg _ (wrTrace_length ..))

/-- Settles O16: an able block carries the whole register write out and is idle again. -/
theorem writeRegCompletes : Obligations.WriteRegCompletes :=
  fun _ a d h => exec_writeReg_of_able h a d

/-- Settles O18: the trace of a write with the strobe as chip select. -/
theorem chipSelectTraceOfAWrite : Obligations.ChipSelectTraceOfAWrite := by
  intro s a d h hv
  obtain ⟨t, hexec, htrace, hlen, hstrobe⟩ := exec_writeReg_trace h a d
  rw [wrTrace_of_cs hv, addressByte_maskAddress] at htrace
  exact ⟨t, hexec, htrace, hlen, hstrobe.trans (congrArg Variant.idleLevel hv)⟩

/-- Settles O19: the trace of a write with the strobe as load pulse. -/
theorem loadPulseTraceOfAWrite : Obligations.LoadPulseTraceOfAWrite := by
  intro s a d h hv
  obtain ⟨t, hexec, htrace, hlen, hstrobe⟩ := exec_writeReg_trace h a d
  rw [wrTrace_of_load hv, addressByte_maskAddress] at htrace
  exact ⟨t, hexec, htrace, hlen, hstrobe.trans (congrArg Variant.idleLevel hv)⟩

/-- Settles O21: the operation reads its address through the mask only. -/
theorem truncationLaw : Obligations.TruncationLaw := by
  refine ⟨fun s a d => ?_, fun s h => ?_⟩
  · exact congrArg (fun r => s.issue .wr r d) (maskAddress_and_0x0F a).symm
  · refine ⟨_, _, exec_writeReg_of_able h 0xFF 0xAB, rfl, ?_⟩
    rw [sampledBits_wrTrace]
    decide

end Sys2Proof.Machine
end

section
/-! Operations of a runnable block, the duty on the clock kept or broken (41_framer.md R101, 10_state.md R33; log entry 24):
they end, and no bit cell of whatever shape touches the strobe line. -/

namespace Sys2Proof.Machine

/-- The longest operation is INIT_DISPLAY: thirteen register writes of 22 atomic steps. -/
theorem micro_cost_le (p : Params) (o : Op) (r : Nibble) (d : Byte) :
    ((micro p o r d).map MicroOp.cost).sum ≤ opFuel := by
  cases o with
  | none => exact Nat.zero_le _
  | initT => exact (show 1 ≤ opFuel by decide)
  | txb => exact (show 10 ≤ opFuel by decide)
  | wr => exact (wr_size p r d).2.trans_le (by decide)
  | initD => exact (writes_size p (initTable d)).2.trans_le (show 22 * 13 ≤ opFuel by decide)

/-- Micro-operations leave no byte in flight. -/
theorem State.foldl_did_busy (ms : List MicroOp) {s : State} (hb : s.busy = false) :
    (ms.foldl State.did s).busy = false := by
  induction ms generalizing s with
  | nil => exact hb
  | cons m ms ih =>
    obtain ⟨-, -, -, -, -, -, -, -, -, hbusy⟩ := State.did_keeps s m
    exact ih (hbusy hb)

/-- Sending a byte does not touch the strobe line (10_state.md R33). -/
theorem State.did_tx_strobe (s : State) (v : Byte) : (s.did (.tx v)).strobe = s.strobe := by
  obtain ⟨-, -, -, -, -, -, -, -, -, hstrobe⟩ := State.afterCells_keeps (s.txStart v) 8
  exact hstrobe

/-- A runnable block carries any operation out, is idle again, and the strobe line is where the operation put it. -/
theorem State.runnable.issue_idle {s : State} (h : s.runnable) {o : Op} (ho : o ≠ .none) (r : Nibble) (d : Byte) :
    ∃ t, s.issue o r d = .next t ∧ t.idle ∧ t.strobe = ((micro s.params o r d).foldl State.did s).strobe := by
  obtain ⟨hi, hcfg, hclk, hu⟩ := h
  refine ⟨_, State.issue_completes hi (State.admits_of_cfgDone hcfg o) hclk hu (micro_ne_nil ho s.params r d)
    (Nat.lt_of_le_of_lt (micro_length_le ..) (by decide)) (micro_cost_le ..), ⟨rfl, ?_⟩, rfl⟩
  exact State.foldl_did_busy _ hi.2

/-- The table of INIT_DISPLAY ends with the write of SHUTDOWN (42_init_sequence.md R110). -/
theorem initTable_eq_append (i : Byte) : initTable i = (initTable i).dropLast ++ [(0xC#4, 0x01#8)] := rfl

/-- The writes of INIT_DISPLAY leave the strobe line at the idle level. -/
theorem State.foldl_did_initTable_strobe (s : State) (r : Nibble) (i : Byte) :
    ((micro s.params .initD r i).foldl State.did s).strobe = s.params.variant.idleLevel := by
  rw [micro, initTable_eq_append]
  exact State.foldl_did_writes_idle ..

/-- The idle level, variant by variant (R101). -/
theorem idleLevel_cases {v : Variant} {x : Level} (h : x = v.idleLevel) :
    (v = .cs → x = true) ∧ (v = .load → x = false) :=
  ⟨fun hv => h.trans (congrArg Variant.idleLevel hv), fun hv => h.trans (congrArg Variant.idleLevel hv)⟩

/-- Settles O20: each operation ends idle; its last register write, if it has one, leaves the strobe at the idle level. -/
theorem strobeIdleAfterRegisterWrites : Obligations.StrobeIdleAfterRegisterWrites := by
  intro s a d u i h
  refine ⟨?_, ?_, ?_⟩
  · obtain ⟨t, hexec, hidle, hstrobe⟩ := h.issue_idle (o := .wr) (by decide) (maskAddress a) d
    exact ⟨t, hexec, hidle, idleLevel_cases (hstrobe.trans (State.foldl_did_wr_idle s _ d).1)⟩
  · obtain ⟨t, hexec, hidle, hstrobe⟩ := h.issue_idle (o := .initD) (by decide) s.addrHold i
    exact ⟨t, hexec, hidle, idleLevel_cases (hstrobe.trans (State.foldl_did_initTable_strobe s _ i))⟩
  · obtain ⟨t, hexec, hidle, hstrobe⟩ := h.issue_idle (o := .txb) (by decide) s.addrHold d
    exact ⟨t, hexec, hidle, hstrobe.trans (State.did_tx_strobe s d)⟩

end Sys2Proof.Machine
end

section
/-! A register write against the frame it sends (41_framer.md R103, 70_reset_and_hazards.md R176): where the strobe line is
low as it is raised, the write commits that frame; a LOAD write that finds it high commits nothing. -/

namespace Sys2Proof.Machine

/-- The frame of `a` and `d` is the commit at the masked address (43_register_frames.md R121). -/
theorem exec_decodeFrame_frameOf (a d : Byte) (s : State) :
    exec (decodeFrame (frameOf a d)) s = .next (s.commitFrame (maskAddress a) d) := by
  have h := frameTarget_decodeFrame (frameOf a d)
  rw [frameR_frameOf, frameD_frameOf] at h
  exact exec_frame h s

/-- A write that raises a low strobe line acts on the cells, `MODE` and `WOKEN` as the commit (43_register_frames.md R120). -/
theorem Receiver.afterWrite_eq_commit {q : Receiver} {p : Params} (hs : p.variant = .load → q.prevStrobe = false)
    (r : Nibble) (d : Byte) :
    (q.afterWrite p r d).rx = (q.commit r d).rx ∧ (q.afterWrite p r d).mode = (q.commit r d).mode ∧
      (q.afterWrite p r d).modeKnown = (q.commit r d).modeKnown ∧
      (q.afterWrite p r d).woken = (q.commit r d).woken := by
  obtain ⟨n, hn⟩ := Receiver.afterWrite_commits hs r d
  rw [hn]
  exact ⟨rfl, rfl, rfl, rfl⟩

/-- Where it raises a low strobe line, a register write leaves the cells, `MODE` and `WOKEN` as its frame does. -/
theorem exec_writeReg_commits_frame {s : State} (h : s.able) (hs : s.params.variant = .load → s.rcv.prevStrobe = false)
    (a d : Byte) :
    ∃ u v, exec (.writeReg a d) s = .next u ∧ exec (decodeFrame (frameOf a d)) s = .next v ∧
      u.rcv.rx = v.rcv.rx ∧ u.rcv.mode = v.rcv.mode ∧ u.rcv.modeKnown = v.rcv.modeKnown ∧
      u.rcv.woken = v.rcv.woken ∧
      (s.rcv.trusted → maskAddress a ≠ 0 → u.rcv.rx.read (maskAddress a).toNat = some d) := by
  obtain ⟨hrx, hmode, hknown, hwoken⟩ := Receiver.afterWrite_eq_commit hs (maskAddress a) d
  exact ⟨_, _, exec_writeReg_of_able h a d, exec_decodeFrame_frameOf a d s, hrx, hmode, hknown, hwoken,
    fun hq ha => Receiver.afterWrite_read_same hq hs ha d⟩

/-- Settles O28: the lost write leaves the block able and the strobe line low, so that the next write commits its frame. -/
theorem loadWriteIsLostOnAHighStrobe : Obligations.LoadWriteIsLostOnAHighStrobe := by
  intro s a d h hv hs
  let t := (s.written (maskAddress a) d).finished
  have hlost : t.rcv = _ := Receiver.afterWrite_lost hv hs (maskAddress a) d
  have hable : t.able := h.written _ d
  have hlow : t.rcv.prevStrobe = false := congrArg Receiver.prevStrobe hlost
  have htrust (hq : s.rcv.trusted) : t.rcv.trusted := by
    rw [hlost]
    exact hq
  refine ⟨t, exec_writeReg_of_able h a d, ?_⟩
  rw [hlost]
  refine ⟨rfl, rfl, rfl, rfl, rfl, rfl, rfl, rfl, congrArg Variant.idleLevel hv, hable, fun a2 d2 => ?_⟩
  obtain ⟨u, v, hu, hw, hrx, hmode, hknown, hwoken, hread⟩ := exec_writeReg_commits_frame hable (fun _ => hlow) a2 d2
  exact ⟨u, v, hu, hw, hrx, hmode, hknown, hwoken, fun hq => hread (htrust hq)⟩

end Sys2Proof.Machine
end

section
/-! INIT_DISPLAY on the wire (42_init_sequence.md R109 to R114): its state in closed form, the trace of a list of register
writes measured, and the chain of the thirteen WRITE_REGs that leaves the same wire. -/

namespace Sys2Proof.Machine

/-- The writes of INIT_DISPLAY in closed form: the last byte is 0x01, so `MOSI` is left high (R110). -/
theorem State.foldl_written_initTable (s : State) (i : Byte) :
    (initTable i).foldl (fun t x => t.written x.1 x.2) s =
      { s with trace := s.trace ++ writesTrace s.params (initTable i), mosi := true, sclk := s.params.cpol,
               strobe := s.params.variant.idleLevel, shift := 0, bitcnt := 0, busy := false,
               rcv := s.rcv.afterWrites s.params (initTable i) } :=
  State.foldl_written (initTable i).dropLast (0xC#4, 0x01#8) s

/-- Settles O17: an able block carries the thirteen register writes of the table out and is idle again. -/
theorem initDisplayCompletes : Obligations.InitDisplayCompletes := by
  intro s u i h
  rw [exec_initDisplay_of_able h, State.foldl_written_initTable]
  rfl

/-- INIT_DISPLAY appends the trace of its table (42_init_sequence.md R112). -/
theorem exec_initDisplay_trace {s : State} (h : s.able) (u i : Byte) :
    ∃ t, exec (.initDisplay u i) s = .next t ∧ t.trace = s.trace ++ writesTrace s.params (initTable i) :=
  ⟨_, initDisplayCompletes s u i h, rfl⟩

/-- Settles O22: the table, row by row, its addresses by their symbolic names (30_encoding.md R83). -/
theorem initializationOrder : Obligations.InitializationOrder := by
  intro s u i h
  obtain ⟨t, hexec, htrace⟩ := exec_initDisplay_trace h u i
  refine ⟨t, hexec, htrace.trans (congrArg (s.trace ++ ·) ?_)⟩
  simp only [writesTrace, initTable, List.flatMap_cons, List.flatMap_nil, List.append_assoc, List.append_nil]
  rfl

/-! The trace of a list of register writes, measured. -/

@[simp] theorem writesTrace_nil (p : Params) : writesTrace p [] = [] := rfl

@[simp] theorem writesTrace_cons (p : Params) (x : Nibble × Byte) (ws : List (Nibble × Byte)) :
    writesTrace p (x :: ws) = wrTrace p x.1 x.2 ++ writesTrace p ws := rfl

theorem writesTrace_append (p : Params) (ws ws' : List (Nibble × Byte)) :
    writesTrace p (ws ++ ws') = writesTrace p ws ++ writesTrace p ws' := List.flatMap_append

theorem writesTrace_length (p : Params) (ws : List (Nibble × Byte)) :
    (writesTrace p ws).length = 50 * ws.length := by
  induction ws with
  | nil => rfl
  | cons x ws ih =>
    rw [writesTrace_cons, List.length_append, wrTrace_length, ih, List.length_cons]
    omega

/-- Sixteen leading edges for each write (41_framer.md R102). -/
theorem sampledBits_writesTrace_length (p : Params) (m : Level) (ws : List (Nibble × Byte)) :
    (sampledBits p.cpol m (writesTrace p ws)).length = 16 * ws.length := by
  induction ws generalizing m with
  | nil => rfl
  | cons x ws ih =>
    rw [writesTrace_cons, sampledBits_wrTrace_append, List.length_append, List.length_append, ih, List.length_map,
      List.length_map, List.length_cons, List.length_cons]
    simp only [List.length_cons, List.length_nil]
    omega

theorem strobeLevels_append (es fs : List Event) : strobeLevels (es ++ fs) = strobeLevels es ++ strobeLevels fs :=
  List.filterMap_append

theorem strobeLevels_byteTrace (cpol : Level) (v : Byte) : strobeLevels (byteTrace cpol v) = [] := rfl

/-- One strobe pulse for each write: away from the idle level and back to it (41_framer.md R99, R100). -/
theorem strobeLevels_wrTrace (p : Params) (r : Nibble) (d : Byte) :
    strobeLevels (wrTrace p r d) = [!p.variant.idleLevel, p.variant.idleLevel] := by
  cases hv : p.variant with
  | cs =>
    rw [wrTrace_of_cs hv, strobeLevels_append, strobeLevels_append, strobeLevels_append, strobeLevels_byteTrace,
      strobeLevels_byteTrace]
    rfl
  | load =>
    rw [wrTrace_of_load hv, strobeLevels_append, strobeLevels_append, strobeLevels_byteTrace, strobeLevels_byteTrace]
    rfl

theorem strobeLevels_writesTrace (p : Params) (ws : List (Nibble × Byte)) :
    strobeLevels (writesTrace p ws) =
      (List.replicate ws.length [!p.variant.idleLevel, p.variant.idleLevel]).flatten := by
  induction ws with
  | nil => rfl
  | cons x ws ih =>
    rw [writesTrace_cons, strobeLevels_append, strobeLevels_wrTrace, ih, List.length_cons, List.replicate_succ,
      List.flatten_cons]

/-- An address byte begins with a zero bit (30_encoding.md R65). -/
theorem getLsbD_addressByte_seven (r : Nibble) : (addressByte r).getLsbD 7 = false := by
  simp [addressByte]

/-- A write begins with its strobe event, or with the zero bit of its address byte. -/
theorem wrTrace_head? (p : Params) (r : Nibble) (d : Byte) :
    (p.variant = .cs → (wrTrace p r d).head? = some (.strobe false)) ∧
      (p.variant = .load → (wrTrace p r d).head? = some (.data false)) := by
  refine ⟨fun hv => ?_, fun hv => ?_⟩
  · rw [wrTrace_of_cs hv]
    rfl
  · rw [wrTrace_of_load hv, ← getLsbD_addressByte_seven r]
    rfl

/-- A write ends with the strobe line at the idle level (41_framer.md R101). -/
theorem wrTrace_getLast? (p : Params) (r : Nibble) (d : Byte) :
    (wrTrace p r d).getLast? = some (.strobe p.variant.idleLevel) := by
  cases hv : p.variant with
  | cs =>
    rw [wrTrace_of_cs hv]
    rfl
  | load =>
    rw [wrTrace_of_load hv]
    rfl

theorem writesTrace_cons_head? (p : Params) (x : Nibble × Byte) (ws : List (Nibble × Byte)) :
    (writesTrace p (x :: ws)).head? = (wrTrace p x.1 x.2).head? :=
  List.head?_append_of_ne_nil _ (List.ne_nil_of_length_pos (by rw [wrTrace_length]; decide))

theorem writesTrace_append_getLast? (p : Params) (ws : List (Nibble × Byte)) (x : Nibble × Byte) :
    (writesTrace p (ws ++ [x])).getLast? = some (.strobe p.variant.idleLevel) := by
  rw [writesTrace_append, List.getLast?_append, writesTrace_cons, writesTrace_nil, List.append_nil, wrTrace_getLast?]
  rfl

/-- Settles O23: the thirteen writes of the table, measured; NOOP is the first and SHUTDOWN the last. -/
theorem initDisplayTraceSize : Obligations.InitDisplayTraceSize := by
  intro s u i h
  obtain ⟨t, hexec, htrace⟩ := exec_initDisplay_trace h u i
  have hstrobe := strobeLevels_writesTrace s.params (initTable i)
  have hlast := writesTrace_append_getLast? s.params (initTable i).dropLast (0xC#4, 0x01#8)
  rw [← initTable_eq_append] at hlast
  obtain ⟨hcs, hload⟩ := wrTrace_head? s.params 0x0#4 0x00#8
  refine ⟨t, _, hexec, htrace, writesTrace_length s.params (initTable i),
    sampledBits_writesTrace_length s.params s.mosi (initTable i), fun hv => ?_, fun hv => ?_⟩
  · rw [hv] at hstrobe hlast
    exact ⟨hstrobe, (writesTrace_cons_head? ..).trans (hcs hv), hlast⟩
  · rw [hv] at hstrobe hlast
    exact ⟨hstrobe, (writesTrace_cons_head? ..).trans (hload hv), hlast⟩

/-! The chain of WRITE_REG operations. -/

theorem maskAddress_addressByte (r : Nibble) : maskAddress (addressByte r) = r := by
  rw [maskAddress, addressByte, BitVec.extractLsb'_setWidth_of_le (by decide), BitVec.extractLsb'_eq_self]

/-- Register writes do not read the sequencer's registers, which a block that was idle in between holds at rest. -/
theorem State.foldl_written_finished (ws : List (Nibble × Byte)) (s : State) (n : Nat) :
    ({ ws.foldl (fun t x => t.written x.1 x.2) s.finished with free := n } : State).finished =
      ({ ws.foldl (fun t x => t.written x.1 x.2) s with free := n } : State).finished := by
  induction ws generalizing s with
  | nil => rfl
  | cons x ws ih => exact ih (s.written x.1 x.2)

/-- WRITE_REGs issued one after another leave what their writes leave in one operation, but for the free values that the
holding registers have drawn in between (10_state.md R18). -/
theorem execAll_writeRegs {ws : List (Nibble × Byte)} (hws : ws ≠ []) {s : State} (h : s.able) :
    ∃ n, execAll (ws.map fun x => Instr.writeReg (addressByte x.1) x.2) s =
      .next ({ ws.foldl (fun t x => t.written x.1 x.2) s with free := n } : State).finished := by
  induction ws generalizing s with
  | nil => exact absurd rfl hws
  | cons x ws ih =>
    rw [List.map_cons, execAll, exec_writeReg_of_able h, maskAddress_addressByte]
    cases ws with
    | nil => exact ⟨s.free, rfl⟩
    | cons y ws =>
      obtain ⟨n, hn⟩ := ih (List.cons_ne_nil y ws) (h.written x.1 x.2)
      exact ⟨n, hn.trans (congrArg Host.Outcome.next (State.foldl_written_finished (y :: ws) (s.written x.1 x.2) n))⟩

/-- Settles O24: both leave the writes of the table, and differ in the sequencer's registers only. -/
theorem initDisplayEqualsThirteenWrites : Obligations.InitDisplayEqualsThirteenWrites := by
  intro s u i h
  obtain ⟨n, hn⟩ := execAll_writeRegs (ws := initTable i) (by simp [initTable]) h
  have hinit := exec_initDisplay_of_able h u i
  generalize (initTable i).foldl (fun t x => t.written x.1 x.2) s = f at hinit hn
  exact ⟨_, _, hinit, hn, rfl, rfl, rfl, rfl, rfl⟩

end Sys2Proof.Machine
end

section
/-! INIT_DISPLAY at the receiver (42_init_sequence.md R116): its NOOP wakes a receiver that is not refused, each cell then
holds what the table writes to it, SHUTDOWN 1 comes last, and DISPLAYTEST is not addressed. -/

namespace Sys2Proof.Machine

/-- No commit but that of DISPLAYTEST can change the test register (43_register_frames.md R135). -/
theorem Receiver.commit_testWritten {q : Receiver} (hq : q.rxRefused = false) {r : Nibble} (d : Byte)
    (hr : r ≠ displayTestAddress) : (q.commit r d).testWritten = q.testWritten := by
  by_cases h0 : r = 0
  · rw [h0, Receiver.commit_noop hq]
  · cases hw : q.woken with
    | false =>
      rw [Receiver.commit_untrusted hq hw h0]
      exact if_neg hr
    | true =>
      by_cases hs : r = shutdownAddress
      · obtain ⟨m, k, n, hm⟩ := Receiver.setMode_spec q d
        rw [hs, Receiver.commit_shutdown ⟨hw, hq⟩, hm]
        rfl
      · rw [Receiver.commit_cell ⟨hw, hq⟩ h0 hs]
        exact if_neg hr

theorem Receiver.afterWrite_testWritten {q : Receiver} (hq : q.rxRefused = false) (p : Params) {r : Nibble} (d : Byte)
    (hr : r ≠ displayTestAddress) : (q.afterWrite p r d).testWritten = q.testWritten := by
  obtain ⟨c, n, rfl | rfl, h⟩ := Receiver.afterWrite_cases q p r d
  · rw [h]
    exact Receiver.commit_testWritten hq d hr
  · rw [h]

/-- Idle, the strobe line of a LOAD receiver is low, so that the next write commits (41_framer.md R103). -/
theorem Receiver.low_of_idle {q : Receiver} {p : Params} (hs : q.prevStrobe = p.variant.idleLevel) :
    p.variant = .load → q.prevStrobe = false :=
  fun hv => hs.trans (congrArg Variant.idleLevel hv)

/-- From the idle level a NOOP makes a receiver that is not refused trusted (R121, R122). -/
theorem Receiver.afterWrite_noop_trusted {q : Receiver} {p : Params} (hq : q.rxRefused = false)
    (hs : q.prevStrobe = p.variant.idleLevel) (d : Byte) : (q.afterWrite p 0 d).trusted := by
  obtain ⟨n, h⟩ := Receiver.afterWrite_commits (Receiver.low_of_idle hs) 0 d
  rw [h, Receiver.commit_noop hq]
  exact ⟨rfl, hq⟩

/-- SHUTDOWN 1 makes a trusted receiver Active (R134). -/
theorem Receiver.afterWrite_shutdown_one_active {q : Receiver} {p : Params} (hq : q.trusted)
    (hs : q.prevStrobe = p.variant.idleLevel) :
    (q.afterWrite p shutdownAddress 1).mode = .active ∧ (q.afterWrite p shutdownAddress 1).modeKnown = true := by
  obtain ⟨n, h⟩ := Receiver.afterWrite_commits (Receiver.low_of_idle hs) shutdownAddress 1
  rw [h, Receiver.commit_shutdown hq, Receiver.setMode_one]
  exact ⟨rfl, rfl⟩

/-! Lists of register writes. -/

theorem Receiver.afterWrites_append (q : Receiver) (p : Params) (ws ws' : List (Nibble × Byte)) :
    q.afterWrites p (ws ++ ws') = (q.afterWrites p ws).afterWrites p ws' := List.foldl_append

/-- The strobe line is idle between the writes and after them. -/
theorem Receiver.afterWrites_prevStrobe {q : Receiver} {p : Params} (hs : q.prevStrobe = p.variant.idleLevel)
    (ws : List (Nibble × Byte)) : (q.afterWrites p ws).prevStrobe = p.variant.idleLevel := by
  induction ws generalizing q with
  | nil => exact hs
  | cons x ws ih => exact ih (Receiver.afterWrite_prevStrobe q p x.1 x.2)

theorem Receiver.afterWrites_trusted {q : Receiver} {p : Params} (hq : q.trusted)
    (hs : q.prevStrobe = p.variant.idleLevel) (ws : List (Nibble × Byte)) : (q.afterWrites p ws).trusted := by
  induction ws generalizing q with
  | nil => exact hq
  | cons x ws ih =>
    exact ih (Receiver.afterWrite_trusted hq (Receiver.low_of_idle hs) x.1 x.2) (Receiver.afterWrite_prevStrobe ..)

theorem Receiver.afterWrites_testWritten {ws : List (Nibble × Byte)} {q : Receiver} (hq : q.rxRefused = false)
    (p : Params) (hws : ∀ x ∈ ws, x.1 ≠ displayTestAddress) : (q.afterWrites p ws).testWritten = q.testWritten := by
  induction ws generalizing q with
  | nil => rfl
  | cons x ws ih =>
    obtain ⟨hx, hws⟩ := List.forall_mem_cons.1 hws
    exact (ih ((Receiver.afterWrite_rxRefused ..).trans hq) hws).trans (Receiver.afterWrite_testWritten hq p x.2 hx)

/-- Where no address comes twice, a trusted receiver holds in each cell what was written to it (20_memory.md R53, R54). -/
theorem Receiver.afterWrites_read_of_mem {ws : List (Nibble × Byte)} {q : Receiver} {p : Params} (hq : q.trusted)
    (hs : q.prevStrobe = p.variant.idleLevel) (hnd : (ws.map Prod.fst).Nodup) {r : Nibble} {d : Byte}
    (hmem : (r, d) ∈ ws) (hr : r ≠ 0) : (q.afterWrites p ws).rx.read r.toNat = some d := by
  induction ws generalizing q with
  | nil => exact absurd hmem List.not_mem_nil
  | cons x ws ih =>
    obtain ⟨hx, hnd⟩ := List.nodup_cons.1 hnd
    have hq' := Receiver.afterWrite_trusted hq (Receiver.low_of_idle hs) x.1 x.2
    rcases List.mem_cons.1 hmem with rfl | hmem
    · have hlater : ∀ y ∈ ws, y.1 = 0 ∨ r.toNat ≠ y.1.toNat := fun y hy =>
        .inr fun he => hx (List.mem_map.2 ⟨y, hy, (BitVec.eq_of_toNat_eq he).symm⟩)
      exact (Receiver.afterWrites_read_other hq'.2 p hlater).trans
        (Receiver.afterWrite_read_same hq (Receiver.low_of_idle hs) hr d)
    · exact ih hq' (Receiver.afterWrite_prevStrobe ..) hnd hmem

/-! The table of INIT_DISPLAY. -/

theorem initTable_nodup (i : Byte) : ((initTable i).map Prod.fst).Nodup :=
  show ((initTable 0).map Prod.fst).Nodup by decide

/-- The address of `DIGITn` is n + 1 (30_encoding.md R83), not that of NOOP. -/
theorem digit_address : ∀ n : Fin 8,
    (BitVec.ofNat 4 (n.val + 1)).toNat = n.val + 1 ∧ BitVec.ofNat 4 (n.val + 1) ≠ 0 := by decide

/-- The row of `DIGITn` is blank (R110). -/
theorem digit_mem_initTable (i : Byte) (n : Fin 8) : (BitVec.ofNat 4 (n.val + 1), 0x00#8) ∈ initTable i := by
  have h : ∀ n : Fin 8, (BitVec.ofNat 4 (n.val + 1), 0x00#8) ∈ (initTable 0).drop 4 := by decide
  exact List.mem_of_mem_drop (i := 4) (h n)

/-- The table is its NOOP and the writes after it, the receiver trusted and the strobe line idle in between. -/
theorem Receiver.afterWrites_initTable {q : Receiver} {p : Params} (hq : q.rxRefused = false)
    (hs : q.prevStrobe = p.variant.idleLevel) (i : Byte) :
    ∃ q' : Receiver, q'.trusted ∧ q'.prevStrobe = p.variant.idleLevel ∧
      q.afterWrites p (initTable i) = q'.afterWrites p (initTable i).tail :=
  ⟨_, Receiver.afterWrite_noop_trusted hq hs 0x00#8, Receiver.afterWrite_prevStrobe .., rfl⟩

theorem Receiver.afterWrites_initTable_trusted {q : Receiver} {p : Params} (hq : q.rxRefused = false)
    (hs : q.prevStrobe = p.variant.idleLevel) (i : Byte) : (q.afterWrites p (initTable i)).trusted := by
  obtain ⟨q', hq', hs', h⟩ := Receiver.afterWrites_initTable hq hs i
  rw [h]
  exact Receiver.afterWrites_trusted hq' hs' _

/-- Each cell the table addresses holds the byte of its row. -/
theorem Receiver.afterWrites_initTable_read {q : Receiver} {p : Params} (hq : q.rxRefused = false)
    (hs : q.prevStrobe = p.variant.idleLevel) {i : Byte} {r : Nibble} {d : Byte} (hmem : (r, d) ∈ initTable i)
    (hr : r ≠ 0) : (q.afterWrites p (initTable i)).rx.read r.toNat = some d := by
  obtain ⟨q', hq', hs', h⟩ := Receiver.afterWrites_initTable hq hs i
  have htail : (r, d) ∈ (initTable i).tail := (List.mem_cons.1 hmem).resolve_left fun he => hr (congrArg Prod.fst he)
  rw [h]
  exact Receiver.afterWrites_read_of_mem hq' hs' (initTable_nodup i).tail htail hr

/-- A cell outside 0x1 to 0xC keeps its byte. -/
theorem Receiver.afterWrites_initTable_read_other {q : Receiver} (hq : q.rxRefused = false) (p : Params) (i : Byte)
    {k : Nat} (hk : k < 1 ∨ 0xC < k) : (q.afterWrites p (initTable i)).rx.read k = q.rx.read k :=
  Receiver.afterWrites_read_other hq p fun _ hx => (initTable_addresses i hx).imp_right (by omega)

/-- SHUTDOWN 1 is the last write, so the receiver is Active in the end. -/
theorem Receiver.afterWrites_initTable_active {q : Receiver} {p : Params} (hq : q.rxRefused = false)
    (hs : q.prevStrobe = p.variant.idleLevel) (i : Byte) :
    (q.afterWrites p (initTable i)).mode = .active ∧ (q.afterWrites p (initTable i)).modeKnown = true := by
  obtain ⟨q', hq', hs', h⟩ := Receiver.afterWrites_initTable hq hs i
  rw [h, show (initTable i).tail = (initTable i).tail.dropLast ++ [(shutdownAddress, 0x01#8)] from rfl,
    Receiver.afterWrites_append]
  exact Receiver.afterWrite_shutdown_one_active (Receiver.afterWrites_trusted hq' hs' _)
    (Receiver.afterWrites_prevStrobe hs' _)

/-- The table does not address DISPLAYTEST. -/
theorem Receiver.afterWrites_initTable_testWritten {q : Receiver} (hq : q.rxRefused = false) (p : Params) (i : Byte) :
    (q.afterWrites p (initTable i)).testWritten = q.testWritten := by
  refine Receiver.afterWrites_testWritten hq p fun x hx he => ?_
  have haddr := initTable_addresses i hx
  rw [he] at haddr
  exact absurd haddr (by decide)

/-- A display that shows bitmaps lights the bits of its rows (43_register_frames.md R139). -/
theorem Receiver.lit_of_showsBitmaps {q : Receiver} (h : q.showsBitmaps) (n k : Fin 8) :
    q.lit n k = (q.rx.read (n.val + 1)).map fun v => v.getLsbD k.val := by
  obtain ⟨hknown, hmode, hfont, hscan, htest⟩ := h
  simp only [Receiver.lit, hknown, hmode, hfont, hscan, htest, and_self, if_true]

/-- Settles O25: the receiver after the table, cell by cell; its rows being blank, no LED is lit. -/
theorem initDisplayConfiguresTheReceiver : Obligations.InitDisplayConfiguresTheReceiver := by
  intro s u i h hq hs
  refine ⟨_, initDisplayCompletes s u i h, ?_⟩
  have htrust := Receiver.afterWrites_initTable_trusted hq hs i
  obtain ⟨hmode, hknown⟩ := Receiver.afterWrites_initTable_active hq hs i
  have htest := Receiver.afterWrites_initTable_testWritten hq s.params i
  have hother {k : Nat} (hk : k < 1 ∨ 0xC < k) := Receiver.afterWrites_initTable_read_other hq s.params i hk
  have hread {r : Nibble} {d : Byte} (hmem : (r, d) ∈ initTable i) (hr : r ≠ 0) :=
    Receiver.afterWrites_initTable_read hq hs hmem hr
  have hscan := hread (r := 0xB#4) (d := 0x07#8) (by simp [initTable]) (by decide)
  have hintensity := hread (r := 0xA#4) (d := i) (by simp [initTable]) (by decide)
  have hfont := hread (r := 0x9#4) (d := 0x00#8) (by simp [initTable]) (by decide)
  have hshutdown := hread (r := 0xC#4) (d := 0x01#8) (by simp [initTable]) (by decide)
  have hrow (n : Fin 8) : (s.rcv.afterWrites s.params (initTable i)).rx.read (n.val + 1) = some 0x00 := by
    obtain ⟨hnat, hne⟩ := digit_address n
    rw [← hnat]
    exact hread (digit_mem_initTable i n) hne
  refine ⟨htrust, hscan, hintensity, hfont, hrow, hshutdown, hmode, hknown, hother (by decide), hother (by decide),
    hother (by decide), hother (by decide), fun ht n k => ?_⟩
  rw [Receiver.lit_of_showsBitmaps ⟨hknown, hmode, hfont, hscan, htest.trans ht⟩, hrow]
  simp

end Sys2Proof.Machine
end

section
/-! The display (43_register_frames.md R139), and what a frame instruction does at the receiver, address by address:
NOOP, SHUTDOWN, the test register, the cells that are data only, and the receivers that are not trusted (R120 to R137). -/

namespace Sys2Proof.Machine

/-! What an LED shows, case by case. -/

theorem Receiver.lit_of_mode_unknown {r : Receiver} (h : r.modeKnown = false) (n k : Fin 8) : r.lit n k = none := by
  simp [Receiver.lit, h]

theorem Receiver.lit_of_shutdown {r : Receiver} (hk : r.modeKnown = true) (hm : r.mode = .shutdown) (n k : Fin 8) :
    r.lit n k = some false := by
  simp [Receiver.lit, hk, hm]

theorem Receiver.lit_of_active_hidden {r : Receiver} (hm : r.mode = .active) (h : ¬r.showsBitmaps) (n k : Fin 8) :
    r.lit n k = none := by
  cases hk : r.modeKnown with
  | false => exact Receiver.lit_of_mode_unknown hk n k
  | true =>
    have hraw : ¬(r.rx.read 0x9 = some 0 ∧ r.rx.read 0xB = some 7 ∧ r.testWritten = false) :=
      fun hraw => h ⟨hk, hm, hraw⟩
    simp only [Receiver.lit, hk, hm, hraw, if_true, if_false]

/-- Settles O53: the cases of `LIT`, one lemma each. -/
theorem whatTheDisplayShows : Obligations.WhatTheDisplayShows := fun _ n k =>
  ⟨fun h => Receiver.lit_of_mode_unknown h n k, fun hk hm => Receiver.lit_of_shutdown hk hm n k,
    fun h => Receiver.lit_of_showsBitmaps h n k, fun hm h => Receiver.lit_of_active_hidden hm h n k⟩

/-! NOOP, and the receivers that are not trusted. -/

/-- Settles O33: the commit of NOOP at a receiver that is not refused. -/
theorem noopFrameOnlyWakes : Obligations.NoopFrameOnlyWakes := by
  intro z d s hr
  rw [exec_frame (a := 0) rfl, State.commitFrame, Receiver.commit_noop hr]

/-- Settles O35: a receiver that is not woken draws the addressed cell, and `MODE` at the address of SHUTDOWN. -/
theorem framesBeforeTheNoopAreNotTrusted : Obligations.FramesBeforeTheNoopAreNotTrusted := by
  intro j a d s h ha hw hr
  refine ⟨_, exec_frame h s, ?_⟩
  rw [State.commitFrame_rcv, Receiver.commit_untrusted hr hw ha]
  exact ⟨Memory.read_write_same .., fun k hk => Memory.read_write_other _ _ hk, hw,
    fun hs => ⟨if_neg hs, if_neg hs⟩, fun hs => ⟨if_pos hs, if_pos hs⟩⟩

/-- Settles O36: a refused receiver draws everything anew, and the commit is at the receiver only. -/
theorem aRefusedReceiverStaysUnspecified : Obligations.ARefusedReceiverStaysUnspecified := by
  intro j a d s h hr
  refine ⟨_, exec_frame h s, ?_⟩
  rw [State.commitFrame, Receiver.commit_refused hr]
  exact ⟨rfl, rfl, Memory.read_unspecified s.rcv.free, Receiver.lit_of_mode_unknown rfl, rfl⟩

/-- Settles O37: a commit keeps the shift register, the bit count and the remembered levels. -/
theorem framesTouchOnlyTheReceiver : Obligations.FramesTouchOnlyTheReceiver := fun _ a d s h =>
  ⟨_, exec_frame h s, rfl, Receiver.commit_keeps s.rcv a d⟩

/-! The cells that are data only: their frames store the byte and do nothing else (R123 to R133, R136, R137). -/

/-- The addresses whose commit neither wakes nor sets `MODE` nor marks the test register. -/
abbrev storesOnly (a : Nibble) : Prop := a ≠ 0 ∧ a ≠ shutdownAddress ∧ a ≠ displayTestAddress

theorem Receiver.commit_of_storesOnly {r : Receiver} (h : r.trusted) {a : Nibble} (ha : storesOnly a) (d : Byte) :
    r.commit a d = { r with rx := r.rx.write a.toNat d } := by
  obtain ⟨h0, hs, ht⟩ := ha
  rw [Receiver.commit_cell h h0 hs, Receiver.writeCell, if_neg ht]

theorem exec_of_storesOnly {j : Instr} {a : Nibble} {d : Byte} {s : State} (h : frameTarget j = some (a, d))
    (hq : s.rcv.trusted) (ha : storesOnly a) :
    exec j s = .next { s with rcv := { s.rcv with rx := s.rcv.rx.write a.toNat d } } := by
  rw [exec_frame h, State.commitFrame, Receiver.commit_of_storesOnly hq ha]

/-- Settles O31: the five addresses are cells that are data only. -/
theorem configurationFramesWriteTheirCells : Obligations.ConfigurationFramesWriteTheirCells := by
  intro z d s hq
  have stores {j : Instr} {a : Nibble} (h : frameTarget j = some (a, d)) (ha : storesOnly a) :
      ∃ t, exec j s = .next t ∧ t.rcv.rx.read a.toNat = some d ∧
        (∀ k, k ≠ a.toNat → t.rcv.rx.read k = s.rcv.rx.read k) ∧
        t = { s with rcv := { s.rcv with rx := t.rcv.rx } } :=
    ⟨_, exec_of_storesOnly h hq ha, Memory.read_write_same .., fun k hk => Memory.read_write_other _ d hk, rfl⟩
  simp only [List.forall_mem_cons]
  exact ⟨stores (a := 0x9#4) rfl (by decide), stores (a := 0xA#4) rfl (by decide), stores (a := 0xB#4) rfl (by decide),
    stores (a := 0xD#4) rfl (by decide), stores (a := 0xE#4) rfl (by decide), fun _ hx => absurd hx List.not_mem_nil⟩

/-- DISPLAYTEST stores its byte and marks the test register (R135). -/
theorem Receiver.commit_displayTest {r : Receiver} (h : r.trusted) (d : Byte) :
    r.commit displayTestAddress d =
      { r with rx := r.rx.write displayTestAddress.toNat d, testWritten := true } := by
  rw [Receiver.commit_cell h (by decide) (by decide), Receiver.writeCell, if_pos rfl]

/-- Settles O32: once the test register is marked, an Active display shows no bitmaps. -/
theorem displayTestFrameStoresAndHidesTheDisplay : Obligations.DisplayTestFrameStoresAndHidesTheDisplay := by
  intro z d s hq
  refine ⟨_, exec_frame (a := displayTestAddress) rfl s, ?_⟩
  rw [State.commitFrame, Receiver.commit_displayTest hq]
  refine ⟨Memory.read_write_same .., fun k hk => Memory.read_write_other _ d hk, rfl, fun hm => ?_⟩
  exact Receiver.lit_of_active_hidden hm fun ⟨_, _, _, _, htest⟩ => Bool.false_ne_true htest.symm

/-! SHUTDOWN (R134). -/

@[simp] theorem Receiver.setMode_rx (r : Receiver) (d : Byte) : (r.setMode d).rx = r.rx := by
  obtain ⟨m, k, n, h⟩ := Receiver.setMode_spec r d
  rw [h]

theorem Receiver.commit_shutdown_eq {r : Receiver} (h : r.trusted) (d : Byte) :
    r.commit shutdownAddress d = { r.setMode d with rx := r.rx.write shutdownAddress.toNat d } := by
  rw [Receiver.commit_shutdown h, Receiver.writeCell, if_neg (by decide), Receiver.setMode_rx]

/-- Settles O34: the cell is written, and `MODE` is what `setMode` makes of it. -/
theorem shutdownFrameSetsTheMode : Obligations.ShutdownFrameSetsTheMode := by
  intro z d s hq
  refine ⟨_, exec_frame (a := shutdownAddress) rfl s, ?_⟩
  rw [State.commitFrame, Receiver.commit_shutdown_eq hq]
  refine ⟨Memory.read_write_same .., fun k hk => Memory.read_write_other _ d hk, ?_, ?_, fun h0 h1 => ?_, ?_⟩
  · rintro rfl
    rw [Receiver.setMode_one]
    exact ⟨rfl, rfl⟩
  · rintro rfl
    rw [Receiver.setMode_zero]
    exact ⟨rfl, rfl⟩
  · rw [Receiver.setMode_other _ h0 h1]
    by_cases hopen : s.rcv.modeOpenFrom d
    · rw [if_pos hopen]
      exact ⟨hopen.1, (if_pos hopen).symm⟩
    · rw [if_neg hopen]
      exact ⟨rfl, (if_neg hopen).symm⟩
  · obtain ⟨m, k, n, h⟩ := Receiver.setMode_spec s.rcv d
    rw [h]

end Sys2Proof.Machine
end

section
/-! A trusted receiver commits the same frame a second time without effect (43_register_frames.md R142, 20_memory.md R54);
the row frames and what they show. -/

namespace Sys2Proof.Machine

theorem Receiver.writeCell_writeCell (r : Receiver) (a : Nibble) (d : Byte) :
    (r.writeCell a d).writeCell a d = r.writeCell a d := by
  by_cases h : a = displayTestAddress <;> simp [Receiver.writeCell, h]

/-- Where the cell holds the SHUTDOWN data that set `MODE`, the same data set it no more (log entry 25). -/
theorem Receiver.setMode_after_setMode (r : Receiver) (d : Byte) :
    ({ r.setMode d with rx := r.rx.write shutdownAddress.toNat d } : Receiver).setMode d =
      { r.setMode d with rx := r.rx.write shutdownAddress.toNat d } := by
  by_cases h1 : d = 1
  · rw [h1, Receiver.setMode_one, Receiver.setMode_one]
  · by_cases h0 : d = 0
    · rw [h0, Receiver.setMode_zero, Receiver.setMode_zero]
    · have hopen : (r.setMode d).modeKnown = false := by
        rw [Receiver.setMode_other r h0 h1]
        split
        · next h => exact h.1
        · rfl
      rw [Receiver.setMode_other _ h0 h1]
      exact if_pos ⟨hopen, Memory.read_write_same ..⟩

theorem Receiver.commit_commit {r : Receiver} (h : r.trusted) (a : Nibble) (d : Byte) :
    (r.commit a d).commit a d = r.commit a d := by
  have ht := Receiver.commit_trusted h a d
  by_cases h0 : a = 0
  · subst h0
    rw [Receiver.commit_noop ht.2, Receiver.commit_noop h.2]
  · by_cases hs : a = shutdownAddress
    · subst hs
      rw [Receiver.commit_shutdown_eq ht, Receiver.commit_shutdown_eq h, Receiver.setMode_after_setMode,
        Memory.write_write]
    · rw [Receiver.commit_cell ht h0 hs, Receiver.commit_cell h h0 hs]
      exact Receiver.writeCell_writeCell r a d

/-- The same frame again changes nothing. -/
theorem exec_frame_again {j : Instr} {a : Nibble} {d : Byte} {s t : State} (h : frameTarget j = some (a, d))
    (hq : s.rcv.trusted) (ht : exec j s = .next t) : exec j t = .next t := by
  cases (exec_frame h s).symm.trans ht
  rw [exec_frame h, State.commitFrame, State.commitFrame_rcv, Receiver.commit_commit hq]
  rfl

/-- Settles O55: a trusted receiver stays trusted, and its second commit is the first. -/
theorem committingTwiceIsCommittingOnce : Obligations.CommittingTwiceIsCommittingOnce := fun _ a d s h hq =>
  ⟨_, exec_frame h s, Receiver.commit_trusted hq a d, exec_frame_again h hq (exec_frame h s)⟩

theorem digit_storesOnly : ∀ n : Fin 8, storesOnly (BitVec.ofNat 4 (n.val + 1)) := by decide

/-- The word of a row frame (R123 to R130). -/
theorem encode_digitFrame (n : Fin 8) (z : Nibble) (d : Byte) :
    encode (digitFrame n z d) = .frame (frameWord z (BitVec.ofNat 4 (n.val + 1)) d) := by
  match n with
  | 0 => rfl
  | 1 => rfl
  | 2 => rfl
  | 3 => rfl
  | 4 => rfl
  | 5 => rfl
  | 6 => rfl
  | 7 => rfl

/-- A display that shows bitmaps still does with a row written, since no row is DECODEMODE or SCANLIMIT. -/
theorem Receiver.showsBitmaps.write_row {r : Receiver} (h : r.showsBitmaps) (n : Fin 8) (d : Byte) :
    ({ r with rx := r.rx.write (n.val + 1) d } : Receiver).showsBitmaps := by
  obtain ⟨hknown, hmode, hfont, hscan, htest⟩ := h
  exact ⟨hknown, hmode, (Memory.read_write_other _ d (by omega)).trans hfont,
    (Memory.read_write_other _ d (by omega)).trans hscan, htest⟩

/-- Settles O30: the address of row n is n + 1, a cell that is data only, and the display shows what it holds. -/
theorem digitFramesWriteTheirRows : Obligations.DigitFramesWriteTheirRows := by
  intro n z d s hq
  have htarget := frameTarget_digitFrame n z d
  have hexec := exec_of_storesOnly htarget hq (digit_storesOnly n)
  rw [(digit_address n).1] at hexec
  refine ⟨_, hexec, Memory.read_write_same .., fun k hk => Memory.read_write_other _ d hk, rfl,
    exec_frame_again htarget hq hexec, fun hshow k => ?_, encode_digitFrame n z d⟩
  rw [Receiver.lit_of_showsBitmaps (hshow.write_row n d), Memory.read_write_same]
  rfl

end Sys2Proof.Machine
end

section
/-! Which frame is committed, and when (43_register_frames.md R118 to R121, R138): the receiver reads `frame[11:0]` of its
shift register, which a register write fills, and the rising edge of the strobe line executes it. -/

namespace Sys2Proof.Machine

/-- Two frames with the same low 12 bits have the same address and the same data. -/
theorem frame_fields_of_low_eq {f g : Frame} (h : f.extractLsb' 0 12 = g.extractLsb' 0 12) :
    frameR f = frameR g ∧ frameD f = frameD g := by
  have hR (f : Frame) : frameR f = (f.extractLsb' 0 12).extractLsb' 8 4 :=
    (BitVec.extractLsb'_extractLsb'_of_le (by decide)).symm
  have hD (f : Frame) : frameD f = (f.extractLsb' 0 12).extractLsb' 0 8 :=
    (BitVec.extractLsb'_extractLsb'_of_le (by decide)).symm
  rw [hR f, hR g, hD f, hD g, h]
  exact ⟨rfl, rfl⟩

/-- A decoded frame is one the block can emit exactly if its upper nibble is zero (30_encoding.md R65, R78). -/
theorem decodeFrame_wellFormed (f : Frame) : (decodeFrame f).wellFormed = zeroFilled (frameZ f) := by
  rcases nibble_cases (frameR f) with h | h | h | h | h | h | h | h | h | h | h | h | h | h | h | h <;>
    simp only [decodeFrame, h] <;> rfl

theorem exec_decodeFrame (f : Frame) (s : State) :
    exec (decodeFrame f) s = .next (s.commitFrame (frameR f) (frameD f)) :=
  exec_frame (frameTarget_decodeFrame f) s

/-- Settles O38: the commit reads address and data, which are in the low 12 bits. -/
theorem upperNibbleIsIgnored : Obligations.UpperNibbleIsIgnored := by
  refine ⟨fun f g s h => ?_, fun a d => ⟨frameZ_frameOf a d, ?_⟩⟩
  · obtain ⟨hR, hD⟩ := frame_fields_of_low_eq h
    rw [exec_decodeFrame, exec_decodeFrame, hR, hD]
  · rw [decodeFrame_wellFormed, frameZ_frameOf]
    rfl

/-- Settles O51: whether the write commits or is lost, its two bytes are in the shift register. -/
theorem shiftRegisterHoldsTheFrame : Obligations.ShiftRegisterHoldsTheFrame := by
  intro s a d h
  have hshift : (s.rcv.afterWrite s.params (maskAddress a) d).rshift = frameOf a d := by
    obtain ⟨_, _, -, hw⟩ := Receiver.afterWrite_cases s.rcv s.params (maskAddress a) d
    rw [hw]
    rfl
  exact ⟨_, exec_writeReg_of_able h a d, hshift, (congrArg frameR hshift).trans (frameR_frameOf a d),
    (congrArg frameD hshift).trans (frameD_frameOf a d)⟩

theorem State.frameDue_eq_some_iff {s : State} {f : Frame} :
    s.frameDue = some f ↔ (s.busy = false ∧ s.currentMicro = some (.stb true) ∧ s.rcv.prevStrobe = false ∧
      16 ≤ s.rcv.nbits) ∧ s.rcv.rshift = f := by
  rw [State.frameDue, Option.ite_none_right_eq_some, Option.some_inj]

/-- With an operation in flight nothing is accepted. -/
theorem State.fetch_of_not_ready {s : State} (ho : s.op ≠ .none) : s.fetch = none := by
  simp [State.fetch, State.ready, ho]

/-- Raising a low strobe line after 16 bits or more is the commit of the frame shifted in (R120, R121). -/
theorem State.driveStrobe_commits {s : State} (hs : s.rcv.prevStrobe = false) (hn : 16 ≤ s.rcv.nbits) :
    s.driveStrobe true =
      ({ s with strobe := true, trace := s.trace ++ [.strobe true],
                rcv := { s.rcv with prevStrobe := true } } : State).commitFrame
        (frameR s.rcv.rshift) (frameD s.rcv.rshift) := by
  have h := Receiver.seeStrobe_rise hs hn
  simp only [State.driveStrobe, State.emit, Receiver.see, h]
  rfl

/-- Settles O11: the sequencer, at `STB(1)`, raises the strobe line, which commits the frame, and advances. -/
theorem stepRunsTheFrameAtTheRisingEdge : Obligations.StepRunsTheFrameAtTheRisingEdge := by
  intro s f hu hdue
  obtain ⟨⟨hb, hm, hs, hn⟩, rfl⟩ := State.frameDue_eq_some_iff.1 hdue
  refine ⟨_, exec_decodeFrame s.rcv.rshift _, ?_⟩
  have hquiet : s.quietStep = some (s.driveStrobe true).advance := by
    rw [State.quietStep_sequencer hu hb, State.sequencerStep, hm]
  rw [step_of_no_fetch (State.fetch_of_not_ready (State.op_ne_none_of_currentMicro hm)), State.proceed, hquiet,
    State.driveStrobe_commits hs hn]

end Sys2Proof.Machine
end

section
/-! What a reset of the block and a power cycle of the receiver leave of the receiver (43_register_frames.md R144, R145). -/

namespace Sys2Proof.Machine

/-- A strobe level the receiver has seen before is no edge. -/
theorem Receiver.seeStrobe_same (r : Receiver) : r.seeStrobe r.prevStrobe = r := by
  cases r with
  | mk _ _ _ _ _ prevStrobe => cases prevStrobe <;> rfl

/-- Settles O45: the receiver sees the strobe line at its reset level, and that is no rising edge. -/
theorem resetLeavesTheReceiverAlone : Obligations.ResetLeavesTheReceiverAlone := by
  intro s ms hm hno
  have hrise : ¬(s.rcv.prevStrobe = false ∧ s.params.strobeReset = true) := by
    rintro ⟨hp, hr⟩
    simp [hp, hr] at hno
  obtain ⟨n, hn⟩ := Receiver.seeStrobe_of_no_rise hrise
  have hcount : s.rcv.prevStrobe = s.params.strobeReset →
      (s.rcv.seeStrobe s.params.strobeReset).nbits = s.rcv.nbits :=
    fun he => congrArg Receiver.nbits (he ▸ Receiver.seeStrobe_same s.rcv)
  rw [hn] at hcount
  have hrcv : ({ s with moves := ms } : State).blockReset.rcv =
      { s.rcv with prevStrobe := s.params.strobeReset, nbits := n } := hn
  refine ⟨({ s with moves := ms } : State).blockReset, step_event (e := .rst) (by simp) hm, ?_⟩
  rw [hrcv]
  exact ⟨rfl, rfl, rfl, rfl, rfl, rfl, hcount⟩

/-- Settles O60: the receiver is as at power-on, and NOOP is all it takes to be trusted. -/
theorem receiverPowerCycle : Obligations.ReceiverPowerCycle := by
  intro s ms hm
  refine ⟨({ s with moves := ms } : State).receiverPowerCycle, step_event (e := .powerCycle) (by simp) hm, rfl, rfl, rfl,
    rfl, rfl, rfl, rfl, rfl, Memory.read_unspecified s.rcv.free, rfl, Receiver.lit_of_shutdown rfl rfl, fun z d => ?_⟩
  exact ⟨_, noopFrameOnlyWakes z d _ rfl, rfl, rfl⟩

end Sys2Proof.Machine
end

section
/-! What is presented to a block that does not take it (60_exceptions.md R155, R156), and that no step faults (R147, R148). -/

namespace Sys2Proof.Machine

/-- With an operation in flight an operation is not accepted (R156). -/
theorem State.issue_of_not_ready {s : State} (ho : s.op ≠ .none) (o : Op) (r : Nibble) (d : Byte) :
    s.issue o r d = .next s := by
  simp [State.issue, State.ready, ho]

/-- An idle block refuses what it does not admit (R155). -/
theorem State.issue_of_not_admitted {s : State} {o : Op} (ho : s.op = .none) (ha : s.admits o = false) (r : Nibble)
    (d : Byte) : s.issue o r d = .refused .operationBeforeInitTransport := by
  simp [State.issue, State.ready, ho, ha]

/-- Before INIT_TRANSPORT the block admits nothing else (30_encoding.md R73). -/
theorem State.admits_of_not_cfgDone {s : State} (hc : s.cfgDone = false) {o : Op} (hne : o ≠ .initT) :
    s.admits o = false := by
  simp [State.admits, hc, hne]

/-- Settles O13: the idle block admits none of the three. -/
theorem operationsBeforeInitTransportAreRefused : Obligations.OperationsBeforeInitTransportAreRefused := by
  intro s ho hc
  have refused {o : Op} (hne : o ≠ .initT) (r : Nibble) (d : Byte) :
      s.issue o r d = .refused .operationBeforeInitTransport :=
    State.issue_of_not_admitted ho (State.admits_of_not_cfgDone hc hne) r d
  exact ⟨fun _ v => refused (o := .txb) (by decide) s.addrHold v,
    fun a d => refused (o := .wr) (by decide) (maskAddress a) d,
    fun _ i => refused (o := .initD) (by decide) s.addrHold i⟩

/-- With nobody coming in, the block takes its step, if it has one. -/
theorem State.proceed_of_undisturbed {s : State} (hu : s.undisturbed = true) : s.proceed = s.blockStep.getD s := by
  unfold State.proceed
  rw [State.quietStep_of_undisturbed hu]
  cases s.blockStep with
  | some t => rfl
  | none =>
    dsimp only
    split
    · next hm => simp [State.undisturbed, hm] at hu
    · rfl

/-- The block's step, or its want of one, leaves what host and platform do next. -/
theorem State.blockStep_getD_moves (s : State) : (s.blockStep.getD s).moves = s.moves := by
  cases h : s.blockStep with
  | none => rfl
  | some t =>
    obtain ⟨-, -, -, hmoves⟩ := State.blockStep_keeps h
    exact hmoves

/-- Settles O12: the operations leave the state, an offer lapses, and under a held request the block goes on. -/
theorem nothingIsAcceptedWhileNotReady : Obligations.NothingIsAcceptedWhileNotReady := by
  intro s ho
  have hstep : step s = .next s.proceed := step_of_no_fetch (State.fetch_of_not_ready ho)
  refine ⟨fun _ => State.issue_of_not_ready ho _ _ _, fun _ _ => State.issue_of_not_ready ho _ _ _,
    fun _ _ => State.issue_of_not_ready ho _ _ _, fun _ _ => State.issue_of_not_ready ho _ _ _,
    fun w ms hm => ?_, fun w ms hm => ⟨?_, State.blockStep_getD_moves s⟩⟩
  · rw [hstep, State.proceed_event hm]
    rfl
  · have hu : s.undisturbed = true := by simp [State.undisturbed, hm]
    rw [hstep, State.proceed_of_undisturbed hu]

/-- Settles O58: a step that fetches nothing proceeds, and of what it fetches it refuses only the operations that an
unconfigured block does not admit. -/
theorem noStepFaults : Obligations.NoStepFaults := by
  intro s
  cases hf : s.fetch with
  | none => exact .inl ⟨_, step_of_no_fetch hf⟩
  | some x =>
    obtain ⟨w, u⟩ := x
    rw [step_of_fetch hf]
    obtain ⟨ho, ms, rfl⟩ := State.fetch_cases hf
    rcases exec_command_cases w { s with moves := ms } with ⟨-, hw, hc, hx⟩ | ⟨-, hx⟩ | ⟨o, r, d, -, -, -, hx⟩
    · exact .inr ⟨w, _, rfl, ho, hw, hc, hx⟩
    · exact .inl ⟨_, hx⟩
    · exact .inl ⟨_, hx⟩

end Sys2Proof.Machine
end

section
/-! The hang (60_exceptions.md R152 to R154): a byte in flight with the peripheral clock stopped. -/

namespace Sys2Proof.Machine

/-- A byte in flight, its clock running: the block's step is a bit cell (40_transport.md R90). -/
theorem State.blockStep_cell {s : State} (hb : s.busy = true) (hc : s.clk = true) : s.blockStep = some s.bitCell := by
  rw [State.blockStep, State.transmitterStep_eq_some_iff.2 ⟨hb, hc, rfl⟩]

/-- Its clock stopped, the transmitter has no step, and the sequencer waits for it (R152). -/
theorem State.blockStep_hung {s : State} {v : Byte} (hm : s.currentMicro = some (.tx v)) (hb : s.busy = true)
    (hc : s.clk = false) : s.blockStep = none := by
  have ht : s.transmitterStep = none := by simp [State.transmitterStep, hc]
  rw [State.blockStep, ht]
  exact State.sequencerStep_of_busy hm hb

/-- Only the three operations that need INIT_TRANSPORT have a `TX` in their lists (10_state.md R21). -/
theorem op_of_tx_mem_micro {p : Params} {o : Op} {r : Nibble} {d v : Byte} (h : .tx v ∈ micro p o r d) :
    o = .txb ∨ o = .wr ∨ o = .initD := by
  cases o with
  | none => simp [micro] at h
  | initT => simp [micro] at h
  | txb => exact .inl rfl
  | wr => exact .inr (.inl rfl)
  | initD => exact .inr (.inr rfl)

/-- At a `TX` the transport is configured (R44 (d)). -/
theorem State.Inv.cfgDone_of_tx {s : State} {v : Byte} (hs : s.Inv) (hm : s.currentMicro = some (.tx v)) :
    s.cfgDone = true :=
  hs.configured (op_of_tx_mem_micro (List.mem_of_getElem? hm))

/-- In the hang every event but `rst` leaves the block as it is: the clock's start is no move (R154, log entry 4). -/
theorem State.happen_hung {s : State} {e : PlatformEvent} (hb : s.busy = true) (hc : s.clk = false) (he : e ≠ .rst) :
    ∃ q, s.happen e = { s with rcv := q } := by
  cases e with
  | offer w => exact ⟨s.rcv, rfl⟩
  | rst => exact absurd rfl he
  | clock runs =>
    refine ⟨s.rcv, ?_⟩
    have hclk : (runs && (s.clk || !s.busy)) = s.clk := by simp [hb, hc]
    have hduty : (s.clockStable && (runs || !s.clk || s.cfgDone)) = s.clockStable := by simp [hc]
    rw [State.happen, State.setClock, hclk, hduty]
  | powerCycle => exact ⟨s.receiverPowerCycle.rcv, rfl⟩

/-- A block without a step leaves the next move to host and platform, however long its countdown. -/
theorem State.proceed_of_no_blockStep {s : State} {n : Nat} {e : PlatformEvent} {ms : List HostMove}
    (h : s.blockStep = none) (hm : s.moves = .after n e :: ms) :
    s.proceed = ({ s with moves := ms } : State).happen e := by
  have hq : s.quietStep = none := Option.eq_none_iff_forall_ne_some.2 fun u hu => by
    obtain ⟨t, _, ht, -⟩ := State.quietStep_cases hu
    simp [h] at ht
  rw [State.proceed, hq, hm]

/-- Either nobody comes in between, or an event of host or platform is next. -/
theorem State.undisturbed_or_event (s : State) : s.undisturbed = true ∨ ∃ n e ms, s.moves = .after n e :: ms := by
  unfold State.undisturbed
  split
  · next hm => exact .inr ⟨_, _, _, hm⟩
  · exact .inl rfl

/-- In the hang a step that is no `rst` leaves the block as it is. -/
theorem State.proceed_hung {s : State} (h : s.blockStep = none) (hb : s.busy = true) (hc : s.clk = false)
    (hno : ∀ n ms, s.moves ≠ .after n .rst :: ms) : ∃ q ms, s.proceed = { s with moves := ms, rcv := q } := by
  rcases s.undisturbed_or_event with hu | ⟨n, e, ms, hm⟩
  · exact ⟨s.rcv, s.moves, by rw [State.proceed_of_undisturbed hu, h]; rfl⟩
  · have he : e ≠ .rst := fun he => hno n ms (he ▸ hm)
    obtain ⟨q, hq⟩ := State.happen_hung (s := { s with moves := ms }) hb hc he
    exact ⟨q, ms, by rw [State.proceed_of_no_blockStep h hm, hq]⟩

/-- TX-START (10_state.md R22). -/
theorem State.blockStep_txStart {s : State} {v : Byte} (hm : s.currentMicro = some (.tx v)) (hb : s.busy = false)
    (ht : s.txs = false) : s.blockStep = some (s.txStart v) := by
  simp [State.blockStep, State.transmitterStep, State.sequencerStep, hm, hb, ht]

/-- Bit cells leave the sequencer where it stands. -/
theorem State.afterCells_currentMicro (s : State) (k : Nat) : (s.afterCells k).currentMicro = s.currentMicro := by
  simp only [State.currentMicro, State.microList, State.afterCells_keeps s k]

/-- Each bit cell shifts the byte by one (40_transport.md R90). -/
theorem State.afterCells_shift (s : State) (k : Nat) : (s.afterCells k).shift = s.shift <<< k := by
  induction k with
  | zero => exact (BitVec.shiftLeft_zero s.shift).symm
  | succ k ih => rw [State.afterCells, State.bitCell_shift, ih, BitVec.shiftLeft_add]

/-- Bit cells of defined shape send the bits of `SHIFT`, most significant first, and each is counted (40_transport.md R90,
43_register_frames.md R118). -/
theorem State.afterCells_wire {s : State} (hk : s.clockStable = true) (k : Nat) :
    (s.afterCells k).rcv.nbits = s.rcv.nbits + k ∧
      (s.afterCells k).trace =
        s.trace ++ (List.range k).flatMap fun j => bitTrace s.params.cpol (s.shift.getMsbD j) := by
  induction k with
  | zero => exact ⟨rfl, (List.append_nil s.trace).symm⟩
  | succ k ih =>
    obtain ⟨hn, ht⟩ := ih
    have hmsb : (s.afterCells k).shift.msb = s.shift.getMsbD k := by
      rw [State.afterCells_shift, BitVec.msb_shiftLeft]
    obtain ⟨-, -, -, -, -, hp, -, hks, -⟩ := State.afterCells_keeps s k
    rw [State.afterCells, State.bitCell_eq (hks.trans hk), hn, ht, hmsb, hp, List.range_succ, List.flatMap_append,
      List.append_assoc]
    exact ⟨Nat.add_assoc .., by simp⟩

/-- The first `k` bit cells of a byte (00_scope.md R13). -/
theorem byteTrace_take (cpol : Level) (v : Byte) {k : Nat} (hk : k ≤ 8) :
    (byteTrace cpol v).take (3 * k) = (List.range k).flatMap fun j => bitTrace cpol (v.getMsbD j) := by
  interval_cases k <;> rfl

/-- Settles O43: the clock stopped, the sequencer waits for a transmitter that has no step; and up to there each cell has
sent its bit and left the rest. -/
theorem aStoppedClockHangsTheByteInFlight : Obligations.AStoppedClockHangsTheByteInFlight := by
  refine ⟨fun s hs hb hc => ?_, fun s v hm hb ht hc => ⟨State.blockStep_txStart hm hb ht, fun k hk => ?_⟩⟩
  · obtain ⟨v, hm⟩ := hs.currentMicro_of_busy hb
    have ho : s.op ≠ .none := State.op_ne_none_of_currentMicro hm
    have hnone : s.blockStep = none := State.blockStep_hung hm hb hc
    have hcount : 1 ≤ s.bitcnt.toNat := by
      have := hs.busy_count.1 hb
      bv_omega
    have hstep : step s = .next s.proceed := step_of_no_fetch (State.fetch_of_not_ready ho)
    obtain ⟨hsclk, -⟩ := hs.clock_idle (hs.cfgDone_of_tx hm)
    refine ⟨hnone, by simp [State.ready, ho], hs.busy_txs hb, hsclk, hcount, hs.count_le, fun hu => ?_, fun hno => ?_⟩
    · rw [hstep, State.proceed_of_undisturbed hu, hnone]
      rfl
    · obtain ⟨q, ms, hp⟩ := State.proceed_hung hnone hb hc hno
      exact ⟨_, hstep, by rw [hp]⟩
  · have hlt : k < 8 := Nat.lt_succ_of_le hk
    obtain ⟨hcount, hleft⟩ := State.afterCells_count s v (Nat.le_of_lt hlt)
    have hbusy : ((s.txStart v).afterCells k).busy = true := hleft.trans (by simp [Nat.ne_of_lt hlt])
    obtain ⟨-, -, -, -, -, -, hclk, -⟩ := State.afterCells_keeps (s.txStart v) k
    have hmicro : ((s.txStart v).afterCells k).currentMicro = some (.tx v) :=
      (State.afterCells_currentMicro (s.txStart v) k).trans hm
    refine ⟨_, rfl, hbusy, hcount, State.afterCells_shift (s.txStart v) k, fun hk' => ?_,
      State.blockStep_cell hbusy (hclk.trans hc),
      State.blockStep_hung (s := { (s.txStart v).afterCells k with clk := false }) hmicro hbusy rfl⟩
    rw [byteTrace_take s.params.cpol v (Nat.le_of_lt hlt)]
    exact State.afterCells_wire (s := s.txStart v) hk' k

end Sys2Proof.Machine
end

section
/-! What a reset that raises a low strobe line does to the frame on its way (70_reset_and_hazards.md R170). -/

namespace Sys2Proof.Machine

/-- A rising edge before 16 bits were sent makes the receiver refuse (R120). -/
theorem Receiver.seeStrobe_rise_early {r : Receiver} (h : r.prevStrobe = false) (hn : r.nbits < 16) :
    r.seeStrobe true = { r with prevStrobe := true }.discredit := by
  simp [Receiver.seeStrobe, h, Receiver.rise, hn]

/-- Settles O46: the receiver of the reset state has seen a rising edge, which is refused below 16 bits and otherwise
commits the frame in `RSHIFT`. -/
theorem resetInMidFrame : Obligations.ResetInMidFrame := by
  intro s ms hm hs hr
  obtain ⟨t, hstep, hop, -, -, -, -, -, -, -, -, -, -, -, -, -, hrcv, -⟩ := resetFromAnyState s ms hm
  rw [hr] at hrcv
  refine ⟨t, hstep, hop, fun hn => ?_, fun hn => ⟨_, exec_decodeFrame s.rcv.rshift _, ?_⟩⟩
  · rw [hrcv, Receiver.seeStrobe_rise_early hs hn]
    exact ⟨rfl, rfl, Receiver.lit_of_mode_unknown rfl⟩
  · rw [hrcv, Receiver.seeStrobe_rise hs hn]
    rfl

end Sys2Proof.Machine
end
